-- ==== Sys2Proof/Word.lean ====
section
/-! DEFINITION. The plain words the commands of the part are made of: characters, identities, ports, and
the shapes a request's fields can take. -/

namespace Sys2Proof

/-- One character on a link (8 data bits, R175). -/
abbrev Byte := BitVec 8

/-- The characters sent as an identity; a permitted one has 12 (00_scope, Identities). -/
abbrev Ident := List Byte

/-- A scanner's number, which is also the number of its tool port and its exchange position. -/
abbrev Scanner := Fin 8

/-- The eleven serial links (00_scope, Ports and lines). -/
inductive Port where
  | tool (k : Scanner)
  | sup
  | hdl
  | ins
deriving DecidableEq, Repr

/-- The content of a complete request frame, without SYNC, LENGTH and CRC (R186). -/
structure Frame where
  code : Byte
  modifier : Byte
  payload : List Byte
deriving DecidableEq, Repr

/-- READ_RECORD names a record by identity or by record number (R23). -/
inductive RecordRef where
  | byIdent (chars : Ident)
  | byNumber (n : Nat)
deriving DecidableEq, Repr

/-- What AMEND asks of one field: nothing, a new value, or that it be made absent (R22). -/
inductive FieldChange where
  | keep
  | assign (v : Nat)
  | absent
deriving DecidableEq, Repr

/-- What READ reports: a reported identity (identity and complement), EMPTY or UNREADABLE (R74). -/
inductive ReadReport where
  | ident (chars : List Byte)
  | empty
  | unreadable
deriving DecidableEq, Repr

end Sys2Proof
end

