-- ==== Sys2Proof/Config.lean ====
section
/-! DEFINITION. What is fixed for the part: its capacities, the values its settings take at FORMAT, and the
free values the spec leaves open. -/

namespace Sys2Proof.Config

/-- Record numbers (R1). -/
def recordCount : Nat := 832
/-- Claim numbers (R28). -/
def claimCount : Nat := 64
/-- Open claims of one scanner, and entries of one claim queue (R28, R30). -/
def scannerClaims : Nat := 8
/-- Entries of one record's claim queue (R30). -/
def claimQueueRoom : Nat := 8
/-- Entries of the dispatch queue (R58). -/
def dispatchRoom : Nat := 32
/-- Move numbers (R57). -/
def moveNumbers : Nat := 64
/-- Shelf slots (R108). -/
def slotCount : Nat := 768
/-- Closed ranges (R111). -/
def rangeCount : Nat := 4
/-- Entries of a return-request list (R92). -/
def returnListRoom : Nat := 12
/-- TO_STATION moves allowed in the dispatch at once: the station lead (R132). -/
def stationLead : Nat := 4
/-- Entries of a notice queue (R188). -/
def noticeRoom : Nat := 8
/-- Spare pages of the nonvolatile array (R162). -/
def spareCount : Nat := 64
/-- Matches one FIND lists (R24). -/
def findMatches : Nat := 8
/-- The value at which exposure counts and ages saturate, and the largest limit (R4). -/
def countMax : Nat := 16777215
/-- The largest tag (R28). -/
def tagMax : Nat := 254
/-- The largest intake reserve (R117). -/
def reserveMax : Nat := 64
/-- The part code IDENTIFY returns (R184). -/
def partCode : Nat := 340

/-- R184: IDENTIFY returns "the design revision as a letter"; the spec does not say which letter.
A free value of the implementation (log 10). -/
opaque revision : Byte

/-- R162: a program cut short by a loss of power leaves a page that is unreadable, or valid with the content
it held before. The same is left open where RESET is asserted during a program, and for the page a failed
program leaves. A free value, applied to a fresh counter each time: true where the page keeps its former
content (log 10, log 24). -/
opaque keepsFormer : Nat → Bool

/-- R184: the response header of a handler request carries "the test and count that its rule gives"; the rules of
TAKE, PICKED, PLACED, READ, PROGRESS and FAULT give none. A free value, applied to a fresh counter each time
(log 28). -/
opaque unstatedTest : Nat → Bool

/-- The count of the same responses, three characters (log 28). -/
opaque unstatedCount : Nat → BitVec 24

end Sys2Proof.Config
end

