-- ==== Sys2Proof/Syntax.lean ====
section
/-! DEFINITION. The commands of the part: one constructor per row of spec/opcode_table.json.

A request row is the TAKING of a request (R180): it carries the port it is taken on, the MODIFIER character
(guard in bits 7 to 4, effect in bits 3 to 0) and the request's fields as the master sent them, in range or
not. The other rows are the events of the links, the lines, the timers, the page array and the power. -/

namespace Sys2Proof

inductive Instr where
  -- requests of the scanners
  | query (p : Port) (m : Byte) (id : Ident)
  | claim (p : Port) (m : Byte) (tag : Nat) (ids : List Ident)
  | cancel (p : Port) (m : Byte) (tag : Nat)
  | taken (p : Port) (m : Byte) (id : Ident)
  | release (p : Port) (m : Byte) (id : Ident)
  | put (p : Port) (m : Byte) (id : Ident)
  | exposed (p : Port) (m : Byte) (id : Ident) (n : Nat)
  | toolStatus (p : Port) (m : Byte)
  -- requests of the supervisor: records
  | register (p : Port) (m : Byte) (id : Ident) (classCode : Nat) (expLimit ageLimit home : Option Nat)
  | retire (p : Port) (m : Byte) (id : Ident)
  | holdTry (p : Port) (m : Byte) (id : Ident)
  | holdWait (p : Port) (m : Byte) (id : Ident)
  | unhold (p : Port) (m : Byte) (id : Ident)
  | rewrite (p : Port) (m : Byte) (id : Ident) (classCode : Nat) (expLimit ageLimit home expCount age : Option Nat)
  | amend (p : Port) (m : Byte) (id : Ident) (classCode home expLimit ageLimit : FieldChange) (namesCounts : Bool)
  | readRecord (p : Port) (m : Byte) (which : RecordRef)
  | find (p : Port) (m : Byte) (start stateFilter : Nat) (classFilter : Option Nat)
  -- requests of the supervisor: claims, inspection, slots
  | promote (p : Port) (m : Byte) (tool tag : Nat)
  | inspect (p : Port) (m : Byte) (id : Ident)
  | relocate (p : Port) (m : Byte) (id : Ident) (dest : Option Nat)
  | audit (p : Port) (m : Byte) (first count : Nat)
  | resolve (p : Port) (m : Byte) (id : Ident) (place : Nat)
  | expunge (p : Port) (m : Byte) (id : Ident)
  | clearExchange (p : Port) (m : Byte) (position : Nat)
  | closeRange (p : Port) (m : Byte) (range first count complement : Nat)
  | openRange (p : Port) (m : Byte) (range : Nat)
  | outtakeCleared (p : Port) (m : Byte)
  -- requests of the supervisor: settings
  | setTool (p : Port) (m : Byte) (tool : Nat) (enabled capacity : Option Nat)
  | setTimers (p : Port) (m : Byte) (take hold watchdog grace station : Option Nat)
  | setDefaults (p : Port) (m : Byte) (expLimit ageLimit : Option Nat)
  | setReserve (p : Port) (m : Byte) (reserve : Nat)
  | setSweep (p : Port) (m : Byte) (period mode : Option Nat)
  | startSweep (p : Port) (m : Byte)
  | stopSweep (p : Port) (m : Byte)
  -- requests of the supervisor: dispatch and retention
  | pause (p : Port) (m : Byte)
  | resume (p : Port) (m : Byte)
  | clear (p : Port) (m : Byte)
  | sync (p : Port) (m : Byte)
  | format (p : Port) (m : Byte)
  | identify (p : Port) (m : Byte)
  -- requests of the handler
  | take (p : Port) (m : Byte)
  | picked (p : Port) (m : Byte) (move : Nat) (chars : List Byte)
  | placed (p : Port) (m : Byte) (move : Nat)
  | read (p : Port) (m : Byte) (move : Nat) (found : ReadReport)
  | progress (p : Port) (m : Byte) (move : Nat)
  | faultPickFailed (p : Port) (m : Byte) (move : Nat)
  | faultPlaceBlocked (p : Port) (m : Byte) (move : Nat)
  | faultMechanical (p : Port) (m : Byte) (move : Nat)
  -- request of the inspection station
  | result (p : Port) (m : Byte) (chars : List Byte) (verdict defect : Nat)
  -- requests of every port
  | setFlags (p : Port) (m : Byte) (pv nv : Nat)
  | fetchNotice (p : Port) (m : Byte)
  | clearSummary (p : Port) (m : Byte)
  | setAttention (p : Port) (m : Byte) (mode mask : Nat)
  | unlistedCodeRequest (p : Port) (m : Byte) (code : Byte)
  -- link events
  | frameComplete (p : Port) (f : Frame)
  | frameGapTimeout (p : Port)
  | addressCharacter (c : Byte)
  | responseSent (p : Port)
  | linkUp (p : Port)
  | linkDown (p : Port)
  -- line events
  | interlockAssertion (k : Scanner)
  | interlockClearing (k : Scanner)
  -- power and reset
  | powerOnReset
  | resetReleased (straps : BitVec 4)
  | reloadEnd
  -- timer expiries
  | moveWatchdogExpiry
  | holdLimitExpiry (k : Scanner)
  | takeTimerExpiry (k : Scanner)
  | accessExpiry (k : Scanner)
  | graceExpiry (k : Scanner)
  | stationWatchdogExpiry
  | sweepExpiry
  | attentionPulseEnd (p : Port)
  -- retention and characters
  | programComplete (verified : Bool)
  | characterReceived (p : Port) (c : Byte)
  | framingError (p : Port)
  | powerLoss
deriving DecidableEq, Repr

end Sys2Proof
end

