-- ==== Sys2Proof/Machine/State.lean ====
section
/-! DEFINITION. The state of the part: every register, table, queue, timer, buffer and line the spec names, as
plain data, and its values right after reset. -/

namespace Sys2Proof.Machine

/-- The part never stops with a fault: the spec gives every event in every state an outcome (a refused
request is a next state with a response, R185). Nothing raises one. -/
inductive Fault
deriving DecidableEq, Repr

/-- Why a command has no meaning. -/
inductive Refusal where
  /-- Raised only by an arm of `exec` whose command has no meaning yet (none is left); safe. -/
  | notModelled (mnemonic : String)
deriving DecidableEq, Repr

/-- A list of number and value, numbers strictly rising: one canonical form for every numbered collection. -/
abbrev Table (α : Type) := List (Nat × α)

/-! ### Custody Table (chapter 1) -/

/-- R8: the ten custody states. A free record number has no entry in the table. -/
inductive Custody where
  | inbound | stored | allotted | inTransit | presented | issued | tendered | atStation | outbound | unverified
deriving DecidableEq, Repr

/-- R6: the places. -/
inductive Place where
  | slot (n : Nat)
  | exchange (k : Scanner)
  | tool (k : Scanner)
  | handler
  | station
  | intakePort
  | outtakePort
deriving DecidableEq, Repr

/-- R9: administrative hold. -/
inductive Held where
  | none | held | holdPending
deriving DecidableEq, Repr

/-- R137: the verdicts of the station. -/
inductive Verdict where
  | pass | fail
deriving DecidableEq, Repr

/-- R4: the last inspection. -/
structure Inspection where
  verdict : Verdict
  defect : Nat
deriving DecidableEq, Repr

/-- R12: what became of the hand-over of the record's page. -/
inductive Retention where
  | clean | queued | unretained
deriving DecidableEq, Repr

/-- R4: a reticle record. Its number is its key in the table. -/
structure Record where
  ident : Ident
  classCode : Nat
  custody : Custody
  place : Option Place
  lastKnown : Option Place
  holder : Option Scanner
  home : Option Nat
  expCount : Nat
  expLimit : Option Nat
  age : Nat
  ageLimit : Option Nat
  due : Bool
  held : Held
  rejected : Bool
  retirePending : Bool
  returnRequested : Bool
  lastInspection : Option Inspection
  /-- R30: the numbers of the WAITING claims naming the record, best standing first. -/
  claimQueue : List Nat
  retention : Retention
deriving DecidableEq, Repr

/-! ### Claim Arbiter (chapter 2) -/

inductive Priority where
  | normal | hot
deriving DecidableEq, Repr

/-- R28: a member entry; it names no record once its record was deleted. -/
structure Member where
  record : Option Nat
  taken : Bool
deriving DecidableEq, Repr

inductive ClaimState where
  | waiting | granted
deriving DecidableEq, Repr

/-- R42: the causes carried in CLAIM_ENDED and RECALLED notices, in the order of that rule's list. -/
inductive EndCause where
  | completed | cancelled | disabled | linkLost | retired | rejected | failed | untaken | cleared
deriving DecidableEq, Repr

/-- R28: a claim record. Its number is its key in the table. -/
structure Claim where
  tool : Scanner
  tag : Nat
  priority : Priority
  members : List Member
  state : ClaimState
  order : Nat
  /-- R36: the claim is one of the claims held for room. -/
  heldForRoom : Bool
deriving DecidableEq, Repr

/-! ### Dispatch Unit (chapter 3) -/

/-- R56: the nine kinds of move, in the order of R55's list. -/
inductive MoveKind where
  | intake | fetch | returnPod | recover | toStation | fromStation | retire | relocate | verify
deriving DecidableEq, Repr

inductive HoldCause where
  | interlock | noSlot
deriving DecidableEq, Repr

inductive MoveState where
  | queued | staged | active | carrying
  | holding (cause : HoldCause)
deriving DecidableEq, Repr

/-- R55: a destination: "slot to be chosen", a place, or absent (VERIFY). -/
inductive Dest where
  | choose
  | at (p : Place)
  | absent
deriving DecidableEq, Repr

/-- R55: the claim a FETCH serves. It is kept after the claim ends and then read as ended; what R87 and
R90 still need of it then (the cause of the end and the members not taken) is kept with it (log 17). -/
structure CauseClaim where
  tool : Scanner
  tag : Nat
  order : Nat
  ended : Option (EndCause × Nat)
deriving DecidableEq, Repr

/-- R55: a move record. -/
structure Move where
  number : Nat
  kind : MoveKind
  subject : Option Nat
  source : Place
  dest : Dest
  /-- The destination the move was queued with, to which R65 sends a withdrawn move back. -/
  ordered : Dest
  priority : Priority
  cause : Option CauseClaim
  state : MoveState
  returning : Bool
  leftSlots : List Nat
deriving DecidableEq, Repr

inductive DispatchState where
  | running | paused | faulted
deriving DecidableEq, Repr

/-- A running timer: the one-second ticks it has counted and the limit it was started with (R102). -/
structure Timer where
  count : Nat
  limit : Nat
deriving DecidableEq, Repr

structure DispatchUnit where
  /-- The QUEUED moves in queue order (R58). -/
  queue : List Move
  staged : Option Move
  /-- The taken move, ACTIVE, CARRYING or HOLDING (R55). -/
  taken : Option Move
  state : DispatchState
  watchdog : Option Timer
  /-- R59 group 1: positions whose RETURN or RECOVER waits for room, in the order they began waiting. -/
  waitExchange : List Scanner
  /-- R59 group 2: the FINISHED station's FROM_STATION waits for room. -/
  waitStation : Bool
  /-- R59 group 3: records whose FETCH is to be queued again, in the order they landed. -/
  waitFetch : List Nat
  /-- R59 group 5: records whose move CT waits to queue, in the order they began waiting. -/
  waitCustody : List Nat
deriving DecidableEq, Repr

/-! ### Slot Map (chapter 5) -/

/-- R108: the five states of a slot, in that rule's order. -/
inductive SlotState where
  | empty
  | occupied (record : Nat)
  | expected (move : Nat)
  | unknown
  | foreign
deriving DecidableEq, Repr

/-- R111: a closed range. -/
structure ClosedRange where
  first : Nat
  count : Nat
  complement : Bool
  inForce : Bool
deriving DecidableEq, Repr

/-- R114: the intake port. -/
inductive IntakePort where
  | empty
  | occupied (record : Nat)
  | unknown
deriving DecidableEq, Repr

structure SlotMap where
  /-- What a slot not listed in `slots` is: UNKNOWN while RELOADING, EMPTY afterwards (R110). -/
  base : SlotState
  slots : Table SlotState
  intake : IntakePort
  /-- R115: the outtake port is OCCUPIED. -/
  outtakeOccupied : Bool
  /-- R116: the intake gate is open, and INTAKE_OK is high. -/
  gateOpen : Bool
deriving DecidableEq, Repr

/-! ### Exchange Units (chapter 4) -/

/-- R84: the seven position states, with the record whose place the position is. -/
inductive Position where
  | empty
  | incoming
  | presented (record : Nat)
  | recalled (record : Nat)
  | opened
  | tendered (record : Nat)
  | unknown
deriving DecidableEq, Repr

/-- R85: the phase. -/
inductive Phase where
  | empty | occupied | doubtful
deriving DecidableEq, Repr

structure ExchangeUnit where
  position : Position
  /-- R92: the return-request list, oldest first. -/
  returnList : List Nat
  lapse : Bool
  /-- R99: the debounced interlock level; true is asserted. -/
  interlock : Bool
  /-- The take timer while PRESENTED, the access timer while OPEN (R89, R95). -/
  timer : Option Timer
  /-- R101: the interlock hold timer. -/
  hold : Option Timer
deriving DecidableEq, Repr

/-! ### Settings (R164) -/

structure ToolSettings where
  enabled : Bool
  capacity : Nat
deriving DecidableEq, Repr

inductive SweepMode where
  | oneShot | periodic
deriving DecidableEq, Repr

structure Settings where
  tools : Vector ToolSettings 8
  takeLimit : Nat
  holdLimit : Nat
  watchdogLimit : Nat
  graceLimit : Nat
  stationLimit : Nat
  reserve : Nat
  ranges : Vector ClosedRange 4
  sweepPeriod : Nat
  sweepMode : SweepMode
  sweepRunning : Bool
  defaultExpLimit : Nat
  defaultAgeLimit : Nat
deriving DecidableEq, Repr

/-- R173: the values every setting takes at FORMAT. -/
def Settings.format : Settings where
  tools := Vector.replicate 8 { enabled := true, capacity := 6 }
  takeLimit := 300
  holdLimit := 60
  watchdogLimit := 90
  graceLimit := 120
  stationLimit := 1800
  reserve := 8
  ranges := Vector.replicate 4 { first := 0, count := 1, complement := false, inForce := false }
  sweepPeriod := 60
  sweepMode := .periodic
  sweepRunning := true
  defaultExpLimit := 50000
  defaultAgeLimit := 10080

/-! ### Qualification Unit (chapter 6) -/

/-- R135: the four station states. -/
inductive StationState where
  | empty
  | expected
  | inspecting (record : Nat)
  | finished (record : Option Nat)
deriving DecidableEq, Repr

structure QualificationUnit where
  station : StationState
  watchdog : Option Timer
  /-- R140: the last abandoned record. -/
  abandoned : Option Nat
  /-- R133: the routing list. -/
  routing : List Nat
  sweepLoaded : Option Nat
  sweepCounted : Nat
deriving DecidableEq, Repr

/-! ### Notices and attention (chapter 10) -/

inductive NoticeClass where
  | info | attention | fault
deriving DecidableEq, Repr

/-- R131: the limit a DUE notice reports. -/
inductive LimitReached where
  | age | exposure | both | inspect
deriving DecidableEq, Repr

/-- R146: the causes of UNVERIFIED notices, in that rule's order. -/
inductive DoubtCause where
  | mismatch | readElsewhere | pickFailed | mechanical | watchdog | auditEmpty | auditConflict | auditForeign
deriving DecidableEq, Repr

/-- R85: the reports a PHASE_ERROR notice names. -/
inductive ScannerReport where
  | taken | put
deriving DecidableEq, Repr

/-- R137, R140: what an INSPECTION notice reports. -/
inductive InspectionEnd where
  | pass | fail | abandoned
deriving DecidableEq, Repr

inductive LinkChange where
  | up | down | graceExpired
deriving DecidableEq, Repr

inductive PageId where
  | header
  | record (n : Nat)
deriving DecidableEq, Repr

inductive RetentionNote where
  | clean
  | remapped (page : PageId) (sparesFree : Nat)
  | sparesExhausted (page : Option PageId) (owed : Nat)
deriving DecidableEq, Repr

/-- R189: the notice kinds, each with the subject fields its sending rule names. -/
inductive Notice where
  | granted (tag members : Nat)
  | presented (id : Ident) (tag move untaken : Nat)
  | recalled (id : Ident) (tag : Nat) (cause : EndCause)
  | access (id : Ident) (listed : Nat)
  | accessWithdrawn (listed : Nat)
  | returned (id : Ident)
  | claimEnded (tag : Nat) (cause : EndCause) (taken : Nat)
  | limitReached (id : Ident) (record expCount limit : Nat)
  | due (id : Ident) (record : Nat) (custody : Custody) (limit : LimitReached) (age expCount : Nat)
  | unverified (id : Ident) (record : Nat) (cause : DoubtCause) (concerned : Place) (lastKnown : Option Place)
      (move : Option Nat)
  | blocked (move : Nat) (kind : MoveKind) (id : Option Ident) (place : Place) (slot : Option Nat)
  | phaseError (scanner : Scanner) (report : ScannerReport) (id : Ident) (position : Position) (phase : Phase)
  | inspection (id : Ident) (record : Nat) (verdict : InspectionEnd) (defect claimsEnded : Option Nat)
  | gate (isOpen : Bool) (free reserve : Nat)
  | sweepDone (aged madeDue period : Nat)
  | retention (note : RetentionNote)
  | reloadDone (settled unverified unreadable : Nat)
  | link (port : Port) (change : LinkChange)
  | retired (id : Ident) (record : Nat)
  | dispatchFaulted (move : Nat) (cause : DoubtCause)
  | moveStaged (move : Nat) (kind : MoveKind) (id : Option Ident) (source : Place) (dest : Option Place)
  | withdrawn (move : Nat)
  | proceed (move : Nat)
  | redirect (move slot : Nat)
  | inspectPod (id : Ident) (record classCode expCount age expLimit ageLimit : Nat) (last : Option Inspection)
      (move : Nat)
  | inspectAbandoned (id : Ident) (record : Nat)
deriving DecidableEq, Repr

/-- R191: three indications; also R192's class mask. -/
structure ClassSet where
  info : Bool
  attention : Bool
  fault : Bool
deriving DecidableEq, Repr

inductive AttentionMode where
  | level | pulse
deriving DecidableEq, Repr

/-- R188, R191, R192: the notice state of one port. -/
structure NoticeState where
  queue : List Notice
  overflow : Bool
  summary : ClassSet
  mode : AttentionMode
  mask : ClassSet
  /-- R192: a pulse is in progress. -/
  pulsing : Bool
deriving DecidableEq, Repr

/-- One value for each of the eleven ports. -/
structure PortMap (α : Type) where
  tools : Vector α 8
  sup : α
  hdl : α
  ins : α
deriving DecidableEq, Repr

/-! ### The account: the blocks whose state one event changes together -/

structure Account where
  /-- CT: the records in use (R1). The identity index (R2) is the records' identities, looked up. -/
  records : Table Record
  /-- CA: the claim table (R28). -/
  claims : Table Claim
  /-- CA: the position the next accepted claim is given (R29). -/
  nextOrder : Nat
  du : DispatchUnit
  sm : SlotMap
  xu : Vector ExchangeUnit 8
  qu : QualificationUnit
  settings : Settings
  /-- R177: the link state of each port; true is UP. -/
  up : PortMap Bool
  /-- R177: the link has been UP since power-on. -/
  everUp : PortMap Bool
  /-- R154: the grace timers of the tool ports. -/
  grace : Vector (Option Timer) 8
  notices : PortMap NoticeState
deriving DecidableEq, Repr

/-! ### Retention Store (chapter 8) -/

/-- R163: the retained content of a record. -/
structure Retained where
  ident : Ident
  classCode : Nat
  home : Option Nat
  expLimit : Option Nat
  ageLimit : Option Nat
  expCount : Nat
  age : Nat
  due : Bool
  held : Held
  rejected : Bool
  retirePending : Bool
  lastInspection : Option Inspection
  state : Custody
  place : Option Place
deriving DecidableEq, Repr

/-- R162: the contents of a page, each with its page tag. -/
inductive Content where
  | header (settings : Settings) (mark : Bool)
  | record (n : Nat) (r : Retained)
  | erased (n : Nat)
  | free
  | bad
deriving DecidableEq, Repr

/-- R162: a page whose CRC matches its content, or one whose CRC does not. -/
inductive Page where
  | readable (c : Content)
  | unreadable
deriving DecidableEq, Repr

/-- Where in the array a page stands. -/
inductive PagePlace where
  | own (p : PageId)
  | spare (i : Nat)
deriving DecidableEq, Repr

/-- What a program in flight is for. -/
inductive ProgramFor where
  /-- A page of the write-back queue, the mark-set header of R168, or a header or record page of a format
  pass. -/
  | page (p : PageId)
  /-- A spare written FREE by a format pass (R173). -/
  | freeSpare
  /-- A failed spare written BAD (R167). -/
  | badSpare
deriving DecidableEq, Repr

/-- R166: the program in flight, with the image it writes and whether it is the second try (R167). -/
structure Program where
  purpose : ProgramFor
  place : PagePlace
  image : Content
  secondTry : Bool
deriving DecidableEq, Repr

/-- R167: what the spare map records of a spare. -/
inductive SpareUse where
  | free | bad
  | replaces (p : PageId)
deriving DecidableEq, Repr

/-- R173: how far a format pass has come: the page being programmed. -/
inductive FormatStep where
  | waiting
  | firstHeader
  | spare (i : Nat)
  | record (n : Nat)
  | lastHeader
deriving DecidableEq, Repr

structure RetentionStore where
  /-- The nonvolatile array. A record page not listed is ERASED with its own number, a spare not listed
  is FREE. -/
  headerPage : Page
  recordPages : Table Page
  sparePages : Table Page
  inFlight : Option Program
  stage : Option (PageId × Content)
  queue : List PageId
  /-- A spare not listed is FREE. -/
  spareMap : Table SpareUse
  owed : List PageId
  /-- R168: the clean mark as it stands in the array. -/
  mark : Bool
  syncRequest : Bool
  format : Option FormatStep
deriving DecidableEq, Repr

/-! ### Links (chapter 9) -/

/-- R185: the outcomes. -/
inductive Outcome where
  | done | skipped | starting | malformed | notPermitted | unknownId | duplicate | noRoom | queueFull | claimLimit
  | libraryFull | notHolder | wrongState | phaseError | late | gateClosed | disabled | identityInvalid
deriving DecidableEq, Repr

/-- 00_scope, Answers: the answers to the handler. -/
inductive Answer where
  | proceed
  | wait
  | redirect (slot : Nat)
  | returnToSource (place : Place)
deriving DecidableEq, Repr

/-- R23: the record summary. -/
structure RecordSummary where
  number : Nat
  ident : Ident
  classCode : Nat
  custody : Custody
  place : Option Place
  lastKnown : Option Place
  holder : Option Scanner
  home : Option Nat
  expCount : Nat
  expLimit : Nat
  expDefault : Bool
  age : Nat
  ageLimit : Nat
  ageDefault : Bool
  due : Bool
  held : Held
  rejected : Bool
  retirePending : Bool
  returnRequested : Bool
  lastInspection : Option Inspection
  queueDepth : Nat
  retention : Retention
deriving DecidableEq, Repr

/-- R53: one entry of the queue QUERY returns; the tag only where the tool is the asking scanner. -/
structure QueueEntry where
  tool : Scanner
  priority : Priority
  tag : Option Nat
deriving DecidableEq, Repr

/-- R104: what TOOL_STATUS tells beyond the position state, by that state. -/
inductive PositionDetail where
  | nothing
  | presented (tag : Option Nat) (seconds : Nat)
  | opened (seconds : Nat)
  | move (number : Option Nat)
deriving DecidableEq, Repr

/-- R104: TOOL_STATUS's account of the position. -/
structure ToolStatus where
  position : Position
  phase : Phase
  ident : Option Ident
  detail : PositionDetail
  lapse : Bool
  returnList : List Ident
  interlock : Bool
  holdRunning : Bool
  enabled : Bool
  capacity : Nat
  load : Nat
  openClaims : Nat
deriving DecidableEq, Repr

/-- R119: how many examined slots stood in each state. -/
structure SlotCounts where
  empty : Nat
  occupied : Nat
  expected : Nat
  unknown : Nat
  foreign : Nat
deriving DecidableEq, Repr

/-- R166: the programming states. -/
inductive ProgrammingState where
  | idle | programming | programmingStaged | reloading
deriving DecidableEq, Repr

/-- R184: what IDENTIFY returns. -/
structure Identification where
  partCode : Nat
  revision : Byte
  station : BitVec 4
  links : PortMap Bool
  dispatch : DispatchState
  programming : ProgrammingState
  mark : Bool
  recordsInUse : Nat
deriving DecidableEq, Repr

/-- The response payloads, as named fields (00_scope, Scope; log 14). -/
inductive Payload where
  | nothing
  | summary (r : RecordSummary)
  | query (r : RecordSummary) (entries : List QueueEntry)
  | toolStatus (t : ToolStatus)
  | found (hits : List (Ident × Nat)) (resume : Option Nat)
  | audit (resume : Option Nat) (passedOver : Nat) (counts : SlotCounts)
  | identification (i : Identification)
  | takenMove (number : Nat) (kind : MoveKind) (id : Option Ident) (source : Place) (dest : Option Place)
  | answer (a : Answer)
  | notice (overflow : Bool) (entry : Option Notice)
deriving DecidableEq, Repr

/-- R180, R186: a response: the code answered, the header and the payload. -/
structure Response where
  code : Byte
  outcome : Outcome
  flagP : Bool
  flagN : Bool
  test : Bool
  summary : ClassSet
  count : Nat
  payload : Payload
deriving DecidableEq, Repr

/-- R178: the frame reader; the characters collected start with LENGTH. -/
inductive Reader where
  | hunting
  | collecting (got : List Byte)
deriving DecidableEq, Repr

/-- R178, R179, R181: the request side of one port. -/
structure PortIo where
  reader : Reader
  heldFrame : Option Frame
  answering : Option Response
  flagP : Bool
  flagN : Bool
deriving DecidableEq, Repr

structure Links where
  ports : PortMap PortIo
  /-- R176. -/
  station : BitVec 4
  addressed : Bool
deriving DecidableEq, Repr

/-- Where the part stands between power, reset, reload and service (R187, R169, R172). -/
inductive Power where
  | off | resetLow | reloading | running
deriving DecidableEq, Repr

structure State where
  /-- The commands that are waiting, first in, first out. -/
  pending : List Instr
  power : Power
  links : Links
  acct : Account
  store : RetentionStore
  /-- The MODEL's own counter that makes each use of a free value fresh (log 24). -/
  freeIndex : Nat
deriving DecidableEq, Repr

/-! ### Values after a power-on reset -/

/-- The same value for every port. -/
def PortMap.all {α : Type} (x : α) : PortMap α where
  tools := Vector.replicate 8 x
  sup := x
  hdl := x
  ins := x

/-- R193: notice state at power-on. -/
def NoticeState.powerOn : NoticeState where
  queue := []
  overflow := false
  summary := { info := false, attention := false, fault := false }
  mode := .level
  mask := { info := true, attention := true, fault := true }
  pulsing := false

/-- R82: the dispatch at power-on. -/
def DispatchUnit.powerOn : DispatchUnit where
  queue := []
  staged := none
  taken := none
  state := .running
  watchdog := none
  waitExchange := []
  waitStation := false
  waitFetch := []
  waitCustody := []

/-- R110, R114, R115, R116: slots and ports while RELOADING. -/
def SlotMap.powerOn : SlotMap where
  base := .unknown
  slots := []
  intake := .unknown
  outtakeOccupied := true
  gateOpen := false

/-- R105: an Exchange Unit at power-on; its position state is settled when the reload ends (log 5). -/
def ExchangeUnit.powerOn : ExchangeUnit where
  position := .empty
  returnList := []
  lapse := false
  interlock := true
  timer := none
  hold := none

/-- R143: the Qualification Unit while RELOADING. -/
def QualificationUnit.powerOn : QualificationUnit where
  station := .empty
  watchdog := none
  abandoned := none
  routing := []
  sweepLoaded := none
  sweepCounted := 0

/-- The live account at power-on (R25, R54, R82, R105, R110, R143, R154, R177, R193); settings are taken when
the reload ends and stand at their FORMAT values until then (log 5). -/
def Account.powerOn : Account where
  records := []
  claims := []
  nextOrder := 0
  du := .powerOn
  sm := .powerOn
  xu := Vector.replicate 8 .powerOn
  qu := .powerOn
  settings := .format
  up := .all false
  everUp := .all false
  grace := Vector.replicate 8 none
  notices := .all .powerOn

/-- R179, R181: the request side of a port at power-on. -/
def PortIo.powerOn : PortIo where
  reader := .hunting
  heldFrame := none
  answering := none
  flagP := false
  flagN := false

/-- R174: the Retention Store at power-on over the array it finds; the mark is the one the reload reads. -/
def RetentionStore.powerOn (headerPage : Page) (recordPages sparePages : Table Page) (mark : Bool) :
    RetentionStore where
  headerPage := headerPage
  recordPages := recordPages
  sparePages := sparePages
  inFlight := none
  stage := none
  queue := []
  spareMap := []
  owed := []
  mark := mark
  syncRequest := false
  format := none

/-- The part right after reset: RESET has just returned high and RELOADING begins (R169, R187; log 3). The
array is as a finished format pass leaves it (log 4); the straps read 0 (log 6). -/
def State.reset : State where
  pending := []
  power := .reloading
  links := { ports := .all .powerOn, station := 0, addressed := false }
  acct := .powerOn
  store := .powerOn (.readable (.header .format true)) [] [] true
  freeIndex := 0

end Sys2Proof.Machine
end

