-- ==== Sys2Proof/Machine/Table.lean ====
section
/-! DEFINITION. Reading and writing the numbered tables and the per-port values. A table lists its numbers
strictly rising; the maps with a default list nothing equal to the default. -/

namespace Sys2Proof.Machine

namespace Table

/-- The value listed under a number. -/
def lookup {α : Type} : Table α → Nat → Option α
  | [], _ => none
  | (k, v) :: t, n => if k = n then some v else lookup t n

/-- Lists a value under a number, in its place in the rising order, in place of what stood there. -/
def put {α : Type} : Table α → Nat → α → Table α
  | [], n, v => [(n, v)]
  | (k, w) :: t, n, v =>
    if n < k then (n, v) :: (k, w) :: t
    else if n = k then (n, v) :: t
    else (k, w) :: put t n v

/-- Lists nothing under a number. -/
def remove {α : Type} : Table α → Nat → Table α
  | [], _ => []
  | (k, w) :: t, n => if k = n then remove t n else (k, w) :: remove t n

/-- Changes the value listed under a number, if there is one. -/
def modify {α : Type} : Table α → Nat → (α → α) → Table α
  | [], _, _ => []
  | (k, w) :: t, n, f => if k = n then (k, f w) :: modify t n f else (k, w) :: modify t n f

/-- Reads a map with a default. -/
def getD {α : Type} (t : Table α) (n : Nat) (dflt : α) : α :=
  (lookup t n).getD dflt

/-- Writes a map with a default: writing the default removes the entry. -/
def putD {α : Type} [DecidableEq α] (t : Table α) (n : Nat) (dflt v : α) : Table α :=
  if v = dflt then remove t n else put t n v

/-- The lowest number below a bound that lists nothing. -/
def lowestFree {α : Type} (t : Table α) (bound : Nat) : Option Nat :=
  (List.range bound).find? (fun n => (lookup t n).isNone)

/-- The canonical form: numbers strictly rising. -/
def sorted {α : Type} : Table α → Bool
  | [] => true
  | [_] => true
  | (k, _) :: (l, w) :: t => decide (k < l) && sorted ((l, w) :: t)

end Table

namespace PortMap

def get {α : Type} (m : PortMap α) : Port → α
  | .tool k => m.tools[k]
  | .sup => m.sup
  | .hdl => m.hdl
  | .ins => m.ins

def set {α : Type} (m : PortMap α) (p : Port) (x : α) : PortMap α :=
  match p with
  | .tool k => { m with tools := m.tools.set k x }
  | .sup => { m with sup := x }
  | .hdl => { m with hdl := x }
  | .ins => { m with ins := x }

def modify {α : Type} (m : PortMap α) (p : Port) (f : α → α) : PortMap α :=
  m.set p (f (m.get p))

/-- Applies one change to every port's value. -/
def mapAll {α : Type} (m : PortMap α) (f : α → α) : PortMap α where
  tools := m.tools.map f
  sup := f m.sup
  hdl := f m.hdl
  ins := f m.ins

end PortMap

/-- All scanners, in ascending order. -/
def scanners : List Scanner := List.finRange 8

/-- The scanner a number names, if it is 0 to 7. -/
def scannerOf (n : Nat) : Option Scanner :=
  if h : n < 8 then some ⟨n, h⟩ else none

end Sys2Proof.Machine
end

