-- ==== Sys2Proof/Machine/Bytes.lean ====
section
/-! DEFINITION. Characters: identities, the CRC-16, and the encodings of numbers and places (R186). -/

namespace Sys2Proof.Machine

/-- 00_scope, Identities: A to Z, 0 to 9, hyphen, full stop. -/
def permittedChar (c : Byte) : Bool :=
  (decide (0x41 ≤ c.toNat) && decide (c.toNat ≤ 0x5A)) || (decide (0x30 ≤ c.toNat) && decide (c.toNat ≤ 0x39))
    || decide (c = 0x2D) || decide (c = 0x2E)

/-- R2: an identity a scanner or the supervisor sends must be 12 permitted characters. -/
def identOk (id : Ident) : Bool :=
  decide (id.length = 12) && id.all permittedChar

/-- R3: the identity of a valid report of 12 identity and 12 complement characters. -/
def reportedIdent (chars : List Byte) : Option Ident :=
  if chars.length = 24 ∧ chars.drop 12 = (chars.take 12).map (fun c => ~~~c) ∧ identOk (chars.take 12) = true then
    some (chars.take 12)
  else none

/-- 00_scope, CRC-16: one bit, most significant first, polynomial x^16+x^12+x^5+1. -/
def crcBit (crc : BitVec 16) : BitVec 16 :=
  if crc.msb then (crc <<< 1) ^^^ 0x1021#16 else crc <<< 1

/-- One byte of the CRC-16. -/
def crcByte (crc : BitVec 16) (b : Byte) : BitVec 16 :=
  crcBit (crcBit (crcBit (crcBit (crcBit (crcBit (crcBit (crcBit (crc ^^^ (b.setWidth 16 <<< 8)))))))))

/-- 00_scope, CRC-16: initial value all ones, no reflection, no final exclusive-or. -/
def crc16 (bytes : List Byte) : BitVec 16 :=
  bytes.foldl crcByte 0xFFFF#16

/-- R178: the two CRC characters of a frame, low byte first. -/
def crcChars (bytes : List Byte) : List Byte :=
  [(crc16 bytes).setWidth 8, (crc16 bytes >>> 8).setWidth 8]

/-- R186: a number in one character. -/
def enc1 (n : Nat) : List Byte := [BitVec.ofNat 8 n]
/-- R186: a number in two characters, low byte first. -/
def enc2 (n : Nat) : List Byte := [BitVec.ofNat 8 n, BitVec.ofNat 8 (n / 256)]
/-- R186: a number in three characters, low byte first. -/
def enc3 (n : Nat) : List Byte := [BitVec.ofNat 8 n, BitVec.ofNat 8 (n / 256), BitVec.ofNat 8 (n / 65536)]

/-- The number two characters carry. -/
def dec2 (a b : Byte) : Nat := a.toNat + 256 * b.toNat
/-- The number three characters carry. -/
def dec3 (a b c : Byte) : Nat := a.toNat + 256 * b.toNat + 65536 * c.toNat

/-- R186: the code of a place. -/
def placeCode : Place → Nat
  | .slot n => n
  | .exchange k => 0x300 + k.val
  | .tool k => 0x310 + k.val
  | .handler => 0x320
  | .station => 0x321
  | .intakePort => 0x322
  | .outtakePort => 0x323

/-- R186: the place a code names. -/
def placeOfCode (c : Nat) : Option Place :=
  if c < Config.slotCount then some (.slot c)
  else if h : 0x300 ≤ c ∧ c < 0x308 then some (.exchange ⟨c - 0x300, by omega⟩)
  else if h : 0x310 ≤ c ∧ c < 0x318 then some (.tool ⟨c - 0x310, by omega⟩)
  else if c = 0x320 then some .handler
  else if c = 0x321 then some .station
  else if c = 0x322 then some .intakePort
  else if c = 0x323 then some .outtakePort
  else none

/-- R186: a place or 0xFFFF for absent. -/
def encPlace (p : Option Place) : List Byte := enc2 ((p.map placeCode).getD 0xFFFF)
/-- R186: a slot or 0xFFFF for absent. -/
def encSlot (n : Option Nat) : List Byte := enc2 (n.getD 0xFFFF)
/-- R186: a tool, tag or move number, or 0xFF for absent. -/
def encSmall (n : Option Nat) : List Byte := enc1 (n.getD 0xFF)

/-- R186, log 13: a choice between yes and no, in the order the rules name them. -/
def yesNo : Nat → Option Bool
  | 0 => some true
  | 1 => some false
  | _ => none

/-- R186: custody states. -/
def custodyCode : Custody → Nat
  | .inbound => 0 | .stored => 1 | .allotted => 2 | .inTransit => 3 | .presented => 4
  | .issued => 5 | .tendered => 6 | .atStation => 7 | .outbound => 8 | .unverified => 9

/-- R186: ports. -/
def portCode : Port → Nat
  | .tool k => k.val | .sup => 8 | .hdl => 9 | .ins => 10

/-- R186: pages. -/
def pageCode : PageId → Nat
  | .record n => n | .header => 0x400

/-- R185: outcome codes. -/
def outcomeCode : Outcome → Nat
  | .done => 0x00 | .skipped => 0x01 | .starting => 0x02 | .malformed => 0x03 | .notPermitted => 0x04
  | .unknownId => 0x05 | .duplicate => 0x06 | .noRoom => 0x07 | .queueFull => 0x08 | .claimLimit => 0x09
  | .libraryFull => 0x0A | .notHolder => 0x0B | .wrongState => 0x0C | .phaseError => 0x0D | .late => 0x0E
  | .gateClosed => 0x0F | .disabled => 0x10 | .identityInvalid => 0x11

/-- R42: a choice by its position in that rule's list of causes. -/
def endCauseCode : EndCause → Nat
  | .completed => 0 | .cancelled => 1 | .disabled => 2 | .linkLost => 3 | .retired => 4
  | .rejected => 5 | .failed => 6 | .untaken => 7 | .cleared => 8

/-- R55: a choice by its position in that rule's list of kinds. -/
def moveKindCode : MoveKind → Nat
  | .intake => 0 | .fetch => 1 | .returnPod => 2 | .recover => 3 | .toStation => 4
  | .fromStation => 5 | .retire => 6 | .relocate => 7 | .verify => 8

/-- R146: a choice by its position in that rule's table of causes. -/
def doubtCauseCode : DoubtCause → Nat
  | .mismatch => 0 | .readElsewhere => 1 | .pickFailed => 2 | .mechanical => 3 | .watchdog => 4
  | .auditEmpty => 5 | .auditConflict => 6 | .auditForeign => 7

/-- R84: a choice by its position in that rule's table of states. -/
def positionCode : Position → Nat
  | .empty => 0 | .incoming => 1 | .presented _ => 2 | .recalled _ => 3 | .opened => 4 | .tendered _ => 5
  | .unknown => 6

end Sys2Proof.Machine
end

