-- ==== Sys2Proof/Machine/Ops.lean ====
section
/-! DEFINITION. The named operations over the account: reading it, entering notices, and the work record that
carries an event's changes together with what the event still has to settle. -/

namespace Sys2Proof.Machine

/-! ### Notices (chapter 10) -/

/-- R189: the class of a notice. -/
def Notice.cls : Notice → NoticeClass
  | .granted .. => .info
  | .presented .. => .attention
  | .recalled .. => .attention
  | .access .. => .attention
  | .accessWithdrawn .. => .info
  | .returned .. => .info
  | .claimEnded _ .completed _ => .info
  | .claimEnded _ .cancelled _ => .info
  | .claimEnded .. => .attention
  | .limitReached .. => .attention
  | .due .. => .attention
  | .unverified .. => .fault
  | .blocked .. => .fault
  | .phaseError .. => .fault
  | .inspection _ _ .pass _ _ => .info
  | .inspection .. => .attention
  | .gate .. => .info
  | .sweepDone .. => .info
  | .retention .clean => .info
  | .retention (.remapped ..) => .attention
  | .retention (.sparesExhausted ..) => .fault
  | .reloadDone _ doubtful lost => if doubtful = 0 ∧ lost = 0 then .info else .attention
  | .link _ .up => .info
  | .link .. => .attention
  | .retired .. => .info
  | .dispatchFaulted .. => .fault
  | .moveStaged .. => .info
  | .withdrawn .. => .info
  | .proceed .. => .attention
  | .redirect .. => .attention
  | .inspectPod .. => .attention
  | .inspectAbandoned .. => .attention

/-- R191: sets one class's indication. -/
def ClassSet.add (s : ClassSet) : NoticeClass → ClassSet
  | .info => { s with info := true }
  | .attention => { s with attention := true }
  | .fault => { s with fault := true }

/-- Whether a class is in the set. -/
def ClassSet.has (s : ClassSet) : NoticeClass → Bool
  | .info => s.info
  | .attention => s.attention
  | .fault => s.fault

/-- R191: no indication is set. -/
def ClassSet.none : ClassSet := { info := false, attention := false, fault := false }

/-- R188, R191, R192: a notice reaches a port: its class shows in the summary; it is entered at the tail, and
starts a pulse where enabled in PULSE mode, or it finds the queue full and is discarded with overflow. -/
def NoticeState.enter (ns : NoticeState) (n : Notice) : NoticeState :=
  if ns.queue.length < Config.noticeRoom then
    { ns with
      queue := ns.queue ++ [n]
      summary := ns.summary.add n.cls
      pulsing := ns.pulsing || (decide (ns.mode = .pulse) && ns.mask.has n.cls) }
  else { ns with overflow := true, summary := ns.summary.add n.cls }

/-- R192: the queue holds an enabled entry. -/
def NoticeState.holdsEnabled (ns : NoticeState) : Bool :=
  ns.queue.any (fun n => ns.mask.has n.cls)

/-- R192: the attention output is asserted. -/
def NoticeState.asserted (ns : NoticeState) : Bool :=
  match ns.mode with
  | .level => ns.holdsEnabled
  | .pulse => ns.pulsing

/-- R155, R193: the queue is emptied, its overflow flag and summary cleared; the attention settings stay. A pulse in
progress runs on to its ATTENTION_PULSE_END (DESIGN CHOICE, log 41). -/
def NoticeState.emptied (ns : NoticeState) : NoticeState :=
  { ns with queue := [], overflow := false, summary := .none }

/-! ### Reading the account -/

namespace Account

/-- The record of a number, if it is in use (R1). -/
def record (a : Account) (r : Nat) : Option Record := Table.lookup a.records r

/-- R2: the identity index: the number and record an identity names. -/
def findIdent (a : Account) (id : Ident) : Option (Nat × Record) :=
  a.records.find? (fun p => decide (p.2.ident = id))

/-- The identity of a record number in use. -/
def identOf (a : Account) (r : Nat) : Ident := ((a.record r).map (·.ident)).getD []

/-- R7: the number of records whose holder is scanner k. -/
def holderCount (a : Account) (k : Scanner) : Nat :=
  a.records.countP (fun p => decide (p.2.holder = some k))

/-- R31: the open-claim count of scanner k. -/
def openClaims (a : Account) (k : Scanner) : Nat :=
  a.claims.countP (fun p => decide (p.2.tool = k))

/-- R31: the library load of scanner k: its holder count and the member entries of its WAITING claims. -/
def libraryLoad (a : Account) (k : Scanner) : Nat :=
  a.holderCount k
    + ((a.claims.filter (fun p => decide (p.2.tool = k) && decide (p.2.state = .waiting))).map
        (fun p => p.2.members.length)).sum

/-- R44, R51: the open claim of a scanner with a tag. -/
def findClaim (a : Account) (k : Scanner) (tag : Nat) : Option (Nat × Claim) :=
  a.claims.find? (fun p => decide (p.2.tool = k) && decide (p.2.tag = tag))

/-- R40, R47: the open GRANTED claim that holds a record untaken. -/
def grantedFor (a : Account) (r : Nat) : Option (Nat × Claim) :=
  a.claims.find? (fun p =>
    decide (p.2.state = .granted) && p.2.members.any (fun m => decide (m.record = some r) && !m.taken))

/-- R5: the effective exposure limit. -/
def effExp (a : Account) (rec : Record) : Nat := rec.expLimit.getD a.settings.defaultExpLimit

/-- R5: the effective age limit. -/
def effAge (a : Account) (rec : Record) : Nat := rec.ageLimit.getD a.settings.defaultAgeLimit

/-- R21, R124: the exposures remaining before the effective exposure limit. -/
def remaining (a : Account) (rec : Record) : Nat := a.effExp rec - rec.expCount

/-- Every move in the dispatch, the taken move last. -/
def moves (a : Account) : List Move :=
  a.du.staged.toList ++ a.du.queue ++ a.du.taken.toList

/-- R57: the move that names a record. -/
def moveOf (a : Account) (r : Nat) : Option Move :=
  a.moves.find? (fun m => decide (m.subject = some r))

/-- R36, condition 3: a move queued, staged or taken names the record. -/
def named (a : Account) (r : Nat) : Bool := (a.moveOf r).isSome

/-- R58: the free entries of the dispatch queue. -/
def freeEntries (a : Account) : Nat :=
  Config.dispatchRoom - (a.du.queue.length + a.du.staged.toList.length)

/-- R57: the lowest free move number. -/
def freeMoveNumber (a : Account) : Nat :=
  ((List.range Config.moveNumbers).find? (fun n => a.moves.all (fun m => decide (m.number ≠ n)))).getD 0

/-- R132: the TO_STATION moves in the dispatch, QUEUED, STAGED and taken. -/
def toStationMoves (a : Account) : Nat :=
  a.moves.countP (fun m => decide (m.kind = .toStation))

/-- R52, R132, R141: the record's claim queue holds a HOT claim. -/
def hotClaimed (a : Account) (r : Nat) : Bool :=
  ((a.record r).map (·.claimQueue)).getD [] |>.any (fun c =>
    decide ((Table.lookup a.claims c).map (·.priority) = some .hot))

/-- The priority of a station move for a record (R52, R132, R141). -/
def stationPriority (a : Account) (r : Nat) : Priority := if a.hotClaimed r then .hot else .normal

/-- R108: the state of a slot. -/
def slot (a : Account) (n : Nat) : SlotState := Table.getD a.sm.slots n a.sm.base

/-- R111: a range closes a slot. -/
def rangeCloses (g : ClosedRange) (n : Nat) : Bool :=
  g.inForce && (if g.complement then decide (n < g.first) || decide (g.first + g.count ≤ n)
    else decide (g.first ≤ n) && decide (n < g.first + g.count))

/-- R111: a slot is closed when any range in force closes it. -/
def closed (a : Account) (n : Nat) : Bool := a.settings.ranges.toList.any (fun g => rangeCloses g n)

/-- R116: a slot counted free: EMPTY and open. -/
def freeSlot (a : Account) (n : Nat) : Bool := decide (a.slot n = .empty) && !a.closed n

/-- R116: the free-slot count F. -/
def freeSlots (a : Account) : Nat := (List.range Config.slotCount).countP a.freeSlot

/-- R113, R119: a VERIFY move of the slot is QUEUED, STAGED or taken. -/
def underVerify (a : Account) (n : Nat) : Bool :=
  a.moves.any (fun m => decide (m.kind = .verify) && decide (m.source = .slot n))

/-- R113: a candidate slot for a move. -/
def candidate (a : Account) (left : List Nat) (justEmptied : Option Nat) (n : Nat) : Bool :=
  a.freeSlot n && !a.underVerify n && !left.contains n && decide (justEmptied ≠ some n)

/-- R113: slot choice for a move: the record's home slot if it is a candidate, else the lowest candidate. -/
def chooseSlot (a : Account) (subject : Option Nat) (left : List Nat) (justEmptied : Option Nat) : Option Nat :=
  match (subject.bind a.record).bind (·.home) with
  | some h =>
    if decide (h < Config.slotCount) && a.candidate left justEmptied h then some h
    else (List.range Config.slotCount).find? (a.candidate left justEmptied)
  | none => (List.range Config.slotCount).find? (a.candidate left justEmptied)

/-- R85: the phase follows the position state. -/
def phaseOf : Position → Phase
  | .empty => .empty
  | .incoming => .empty
  | .opened => .empty
  | .presented _ => .occupied
  | .recalled _ => .occupied
  | .tendered _ => .occupied
  | .unknown => .doubtful

/-- R36, condition 4: the scanner's port is UP or within its grace period. -/
def reachable (a : Account) (k : Scanner) : Bool := a.up.tools[k] || (a.grace[k]).isSome

/-- R103: the scanner is enabled. -/
def enabled (a : Account) (k : Scanner) : Bool := (a.settings.tools[k]).enabled

end Account

/-! ### The work record -/

/-- What an event still has to settle: pages handed over (R12, R165), claims brought up for a grant check
(R37), records handed to the Qualification Unit (R132, with a mark where INSPECT hands over a rejected one),
whether staging is tried (R61), the gate judged (R116) and free entries offered to the owners waiting for them (R59),
and whether the event has freed an entry, which alone offers one to the claims held for room (R37). -/
structure Todo where
  pages : List PageId := []
  broughtUp : List Nat := []
  handed : List (Nat × Bool) := []
  stage : Bool := false
  gate : Bool := false
  offer : Bool := false
  freed : Bool := false
deriving DecidableEq, Repr

/-- An event in progress: the account as changed so far, and what is still to settle. -/
structure Work where
  acct : Account
  todo : Todo
deriving DecidableEq, Repr

namespace Work

def start (a : Account) : Work := { acct := a, todo := {} }

/-- Changes the account. -/
def onAcct (w : Work) (f : Account → Account) : Work := { w with acct := f w.acct }
/-- Changes what is to settle. -/
def onTodo (w : Work) (f : Todo → Todo) : Work := { w with todo := f w.todo }

def onDu (w : Work) (f : DispatchUnit → DispatchUnit) : Work := w.onAcct (fun a => { a with du := f a.du })
def onSm (w : Work) (f : SlotMap → SlotMap) : Work := w.onAcct (fun a => { a with sm := f a.sm })
def onQu (w : Work) (f : QualificationUnit → QualificationUnit) : Work := w.onAcct (fun a => { a with qu := f a.qu })
def onXu (w : Work) (k : Scanner) (f : ExchangeUnit → ExchangeUnit) : Work :=
  w.onAcct (fun a => { a with xu := a.xu.set k (f a.xu[k]) })
def onSettings (w : Work) (f : Settings → Settings) : Work := w.onAcct (fun a => { a with settings := f a.settings })
def onRecord (w : Work) (r : Nat) (f : Record → Record) : Work :=
  w.onAcct (fun a => { a with records := Table.modify a.records r f })
def onClaim (w : Work) (c : Nat) (f : Claim → Claim) : Work :=
  w.onAcct (fun a => { a with claims := Table.modify a.claims c f })

/-- R188: a notice goes to a port. -/
def notify (w : Work) (p : Port) (n : Notice) : Work :=
  w.onAcct (fun a => { a with notices := a.notices.modify p (fun ns => ns.enter n) })

/-- R12, R165: a page is handed over, once in an event, in the order of its first cause (log 12). -/
def page (w : Work) (p : PageId) : Work :=
  w.onTodo (fun t => if p ∈ t.pages then t else { t with pages := t.pages ++ [p] })

def recordPage (w : Work) (r : Nat) : Work := w.page (.record r)

def tryStaging (w : Work) : Work := w.onTodo (fun t => { t with stage := true })
def judgeGate (w : Work) : Work := w.onTodo (fun t => { t with gate := true })
/-- R59, R133: an owner has begun to wait for an entry, or one that waited may be given its own now. -/
def offerRoom (w : Work) : Work := w.onTodo (fun t => { t with offer := true })

/-- R59: a TAKE or a withdrawal has freed an entry; it is offered to every group. -/
def freeEntry (w : Work) : Work := w.onTodo (fun t => { t with offer := true, freed := true })

/-- R37: a claim comes up for a grant check. -/
def bringUp (w : Work) (c : Nat) : Work := w.onTodo (fun t => { t with broughtUp := t.broughtUp ++ [c] })

/-- R37: the head of a record's claim queue comes up. -/
def bringHead (w : Work) (r : Nat) : Work :=
  match (w.acct.record r).bind (·.claimQueue.head?) with
  | some c => w.bringUp c
  | none => w

/-- R132: a record is handed to the Qualification Unit. -/
def hand (w : Work) (r : Nat) (byInspect : Bool) : Work :=
  w.onTodo (fun t => { t with handed := t.handed ++ [(r, byInspect)] })

/-- R133: a record leaves the routing list. -/
def unlist (w : Work) (r : Nat) : Work := w.onQu (fun q => { q with routing := q.routing.filter (· ≠ r) })

/-! #### Slots (R108, R109, R120) -/

/-- R120: a VERIFY move's record follows its slot. -/
def followSlot (n : Nat) (subject : Option Nat) (m : Move) : Move :=
  if m.kind = .verify ∧ m.source = .slot n then { m with subject := subject } else m

/-- The record an OCCUPIED slot names. -/
def occupant : SlotState → Option Nat
  | .occupied r => some r
  | _ => none

/-- R109: a slot changes state; its VERIFY moves follow (R120); into EMPTY staging is tried, into or out of
EMPTY the gate is judged again (R116). -/
def setSlot (w : Work) (n : Nat) (st : SlotState) : Work :=
  let old := w.acct.slot n
  let w := w.onSm (fun sm => { sm with slots := Table.putD sm.slots n sm.base st })
  let w := w.onDu (fun du =>
    { du with
      queue := du.queue.map (followSlot n (occupant st))
      staged := du.staged.map (followSlot n (occupant st))
      taken := du.taken.map (followSlot n (occupant st)) })
  let w := if st = .empty then w.tryStaging else w
  if old = .empty ∨ st = .empty then w.judgeGate else w

/-! #### Moves (R55 to R60, R64) -/

/-- R58: a newly queued or raised move takes its place in the queue. -/
def insertMove (q : List Move) (m : Move) : List Move :=
  match m.priority with
  | .hot => q.takeWhile (fun x => decide (x.priority = .hot)) ++ m :: q.dropWhile (fun x => decide (x.priority = .hot))
  | .normal => q ++ [m]

/-- R65: a move withdrawn to the queue is placed at the head of its class. -/
def insertAtHead (q : List Move) (m : Move) : List Move :=
  match m.priority with
  | .hot => m :: q
  | .normal =>
    q.takeWhile (fun x => decide (x.priority = .hot)) ++ m :: q.dropWhile (fun x => decide (x.priority = .hot))

/-- R57, R58: a move is queued with the lowest free number, and staging is tried. -/
def addMove (w : Work) (kind : MoveKind) (subject : Option Nat) (source : Place) (dest : Dest)
    (priority : Priority) (cause : Option CauseClaim) : Work :=
  let m : Move :=
    { number := w.acct.freeMoveNumber, kind := kind, subject := subject, source := source, dest := dest,
      ordered := dest, priority := priority, cause := cause, state := .queued, returning := false, leftSlots := [] }
  (w.onDu (fun du => { du with queue := insertMove du.queue m })).tryStaging

/-- R77: the watchdog starts, or starts afresh, with the limit in force. -/
def startWatchdog (w : Work) : Work :=
  w.onAcct (fun a => { a with du := { a.du with watchdog := some { count := 0, limit := a.settings.watchdogLimit } } })

def stopWatchdog (w : Work) : Work := w.onDu (fun du => { du with watchdog := none })

/-! #### Exchange positions (R86 to R95) -/

/-- R94: an EMPTY position is given to the scanner as OPEN when a request is listed, the interlock is clear
and the lapse is not set; otherwise it consents to a FETCH and staging is tried. -/
def tryOpen (w : Work) (k : Scanner) : Work :=
  let x := w.acct.xu[k]
  if x.position = .empty then
    match x.returnList with
    | r :: _ =>
      if x.interlock || x.lapse then w.tryStaging
      else
        (w.onXu k (fun x =>
          { x with position := .opened, timer := some { count := 0, limit := w.acct.settings.takeLimit } })).notify
          (.tool k) (.access (w.acct.identOf r) x.returnList.length)
    | [] => w.tryStaging
  else w

/-- R94: a position becomes EMPTY, from any state. -/
def emptyPosition (w : Work) (k : Scanner) : Work :=
  (w.onXu k (fun x => { x with position := .empty, timer := none })).tryOpen k

/-- R147, R148, R151: a position becomes UNKNOWN with phase doubtful, and stops waiting for room. -/
def doubtPosition (w : Work) (k : Scanner) : Work :=
  ((w.onXu k (fun x => { x with position := .unknown, timer := none })).onDu (fun du =>
    { du with waitExchange := du.waitExchange.filter (· ≠ k) })).tryStaging

/-- R92, R95: a record leaves a return-request list without its PUT; an emptied list clears the lapse and
ends the access. -/
def leaveList (w : Work) (k : Scanner) (r : Nat) : Work :=
  let x := w.acct.xu[k]
  if r ∈ x.returnList then
    let rest := x.returnList.filter (· ≠ r)
    let w := w.onRecord r (fun rec => { rec with returnRequested := false })
    if rest = [] then
      if x.position = .opened then
        ((w.onXu k (fun x => { x with returnList := [], lapse := false, position := .empty, timer := none })).notify
          (.tool k) (.accessWithdrawn 0)).tryStaging
      else w.onXu k (fun x => { x with returnList := [], lapse := false })
    else w.onXu k (fun x => { x with returnList := rest })
  else w

/-- R90: a PRESENTED position is recalled: RECALLED, the take timer stopped, the RECALLED notice, and its RECOVER
move offered (group 1 of R59). `quiet` at a grace expiry, which enters no RECALLED notice (R107, R155). -/
def recallPosition (w : Work) (k : Scanner) (tag : Nat) (cause : EndCause) (quiet : Bool) : Work :=
  match (w.acct.xu[k]).position with
  | .presented r =>
    let w := w.onXu k (fun x => { x with position := .recalled r, timer := none })
    let w := if quiet then w else w.notify (.tool k) (.recalled (w.acct.identOf r) tag cause)
    (w.onDu (fun du => { du with waitExchange := du.waitExchange ++ [k] })).offerRoom
  | _ => w

/-! #### Marks, withdrawal and redirects (R64, R65, R71) -/

/-- R64, R71: the mark of a move's destination is released. -/
def releaseMark (w : Work) (m : Move) : Work :=
  match m.dest with
  | .at (.slot n) => if w.acct.slot n = .expected m.number then w.setSlot n .empty else w
  | .at (.exchange k) => if (w.acct.xu[k]).position = .incoming then w.emptyPosition k else w
  | .at .station =>
    if w.acct.qu.station = .expected then (w.onQu (fun q => { q with station := .empty })).tryStaging else w
  | _ => w

/-- R64: a QUEUED or STAGED move leaves the dispatch; a STAGED one releases its mark and sends a WITHDRAWN notice;
staging is tried. What becomes of its entry the cause says. -/
def dropMove (w : Work) (m : Move) : Work :=
  if m.state = .staged then
    (((w.onDu (fun du => { du with staged := none })).releaseMark m).notify .hdl (.withdrawn m.number)).tryStaging
  else (w.onDu (fun du => { du with queue := du.queue.filter (fun x => x.number ≠ m.number) })).tryStaging

/-- R64, R59: a QUEUED or STAGED move is withdrawn from the dispatch, and its freed entry is offered. -/
def withdraw (w : Work) (m : Move) : Work := (w.dropMove m).freeEntry

/-- R145: a QUEUED or STAGED move naming the record is withdrawn; a VERIFY stays (R147). -/
def withdrawNaming (w : Work) (r : Nat) : Work :=
  match (w.acct.du.staged.toList ++ w.acct.du.queue).find? (fun m =>
      decide (m.subject = some r) && decide (m.kind ≠ .verify)) with
  | some m => w.withdraw m
  | none => w

/-- R65: the STAGED move is withdrawn to the queue. -/
def withdrawToQueue (w : Work) : Work :=
  match w.acct.du.staged with
  | none => w
  | some m =>
    let back : Move := { m with dest := m.ordered, state := .queued }
    (((w.onDu (fun du => { du with staged := none })).releaseMark m).onDu (fun du =>
      { du with queue := insertAtHead du.queue back })).notify .hdl (.withdrawn m.number)

/-- R70, R71, R101: an interlock hold timer stops with the hold it measures. -/
def stopHold (w : Work) (m : Move) : Work :=
  match m.dest with
  | .at (.exchange k) => w.onXu k (fun x => { x with hold := none })
  | _ => w

/-- R71: the slots a redirected move has left. -/
def leftAfter (m : Move) : List Nat :=
  match m.dest with
  | .at (.slot n) => n :: m.leftSlots
  | _ => m.leftSlots

/-- R71: the taken move is redirected. `released` says that the rule of the cause has not already marked the
former destination (R151); `emptied` is the slot a PICKED has just emptied, the fallback. Where no slot can be
chosen the move is HOLDING with cause NO_SLOT and its watchdog stopped. -/
def redirect (w : Work) (m : Move) (released : Bool) (emptied : Option Nat) : Work :=
  let left := leftAfter m
  let choice := w.acct.chooseSlot m.subject left emptied
  let w := (if released then w.releaseMark m else w).stopHold m
  let go (n : Nat) : Work :=
    ((w.setSlot n (.expected m.number)).onDu (fun du =>
      { du with taken := some { m with dest := .at (.slot n), state := .carrying, leftSlots := left } })).startWatchdog
  match choice, emptied with
  | some n, _ => go n
  | none, some n => go n
  | none, none =>
    (w.onDu (fun du =>
      { du with taken := some { m with dest := .choose, state := .holding .noSlot, leftSlots := left } })).stopWatchdog

/-- The slot a redirect has just chosen, or none where the move is HOLDING. -/
def redirectedTo (a : Account) : Option Nat :=
  match a.du.taken with
  | some m =>
    match m.state, m.dest with
    | .carrying, .at (.slot n) => some n
    | _, _ => none
  | none => none

/-- R71: the REDIRECT notice of a redirect whose cause is not a handler report. -/
def redirectNotice (w : Work) (m : Move) : Work :=
  match redirectedTo w.acct with
  | some n => w.notify .hdl (.redirect m.number n)
  | none => w

/-! #### Entry to STORED (R10) -/

/-- R10: a record that has just become STORED: HOLD_PENDING becomes HELD; retire pending makes it OUTBOUND,
its RETIRE move offered (group 5 of R59); otherwise it is handed to the Claim Arbiter and, if due and neither
held nor rejected, to the Qualification Unit. -/
def applyDeferred (w : Work) (r : Nat) : Work :=
  match w.acct.record r with
  | none => w
  | some rec =>
    let w := if rec.held = .holdPending then (w.onRecord r (fun x => { x with held := .held })).recordPage r else w
    if rec.retirePending then
      ((((w.onRecord r (fun x => { x with custody := .outbound, retirePending := false })).recordPage r).unlist r).onDu
        (fun du => { du with waitCustody := du.waitCustody ++ [r] })).offerRoom
    else
      let w := w.bringHead r
      if rec.due && decide (rec.held = .none) && !rec.rejected then w.hand r false else w

/-- R43: a member before its pick becomes STORED with holder absent, and R10 applies. -/
def backToStored (w : Work) (r : Nat) : Work :=
  (w.onRecord r (fun x => { x with custody := .stored, holder := none })).applyDeferred r

/-! #### Claim ends (R42, R43) -/

/-- R30, R37: a claim's reference leaves the queue of each member; a changed head comes up. -/
def leaveQueues (w : Work) (c : Nat) (members : List Member) : Work :=
  members.foldl (fun w m =>
    match m.record with
    | none => w
    | some r =>
      let wasHead := decide ((w.acct.record r).bind (·.claimQueue.head?) = some c)
      let w := w.onRecord r (fun x => { x with claimQueue := x.claimQueue.filter (· ≠ c) })
      if wasHead then w.bringHead r else w) w

/-- R55: from a claim's end on, the moves it caused read it as ended. -/
def markEnded (order : Nat) (cause : EndCause) (untaken : Nat) (m : Move) : Move :=
  match m.cause with
  | some c => if c.order = order ∧ c.ended = none then { m with cause := some { c with ended := some (cause, untaken) } } else m
  | none => m

def untakenMembers (c : Claim) : List Nat :=
  (c.members.filter (fun m => !m.taken)).filterMap (·.record)

def takenCount (c : Claim) : Nat := c.members.countP (·.taken)

/-- R43: one untaken member of an ended GRANTED claim, by where it stands. -/
def dealMember (tag : Nat) (cause : EndCause) (w : Work) (r : Nat) : Work :=
  match w.acct.record r with
  | none => w
  | some rec =>
    match rec.custody with
    | .allotted =>
      match w.acct.moveOf r with
      | none => (w.onDu (fun du => { du with waitFetch := du.waitFetch.filter (· ≠ r) })).backToStored r
      | some m =>
        match m.state with
        | .queued => (w.withdraw m).backToStored r
        | .staged => (w.withdraw m).backToStored r
        | _ => w
    | .inTransit =>
      match w.acct.du.taken with
      | some m =>
        if m.subject = some r ∧ m.state = .holding .interlock then
          let w := w.redirect m true none
          w.redirectNotice m
        else w
      | none => w
    | .presented =>
      match rec.place with
      | some (.exchange k) => w.recallPosition k tag cause (decide (cause = .linkLost))
      | _ => w
    | .unverified => w.withdrawNaming r
    | _ => w

/-- R42, R43: a claim ends. `silent` where its CLAIM_ENDED notice is entered elsewhere or not at all
(R45, R49). The untaken members of a GRANTED claim are dealt with in member order: R43 gives no order (DESIGN CHOICE,
log 11). -/
def endClaim (w : Work) (c : Nat) (claim : Claim) (cause : EndCause) (silent : Bool) : Work :=
  let w := if silent then w else w.notify (.tool claim.tool) (.claimEnded claim.tag cause (takenCount claim))
  let w := w.onAcct (fun a => { a with claims := Table.remove a.claims c })
  match claim.state with
  | .waiting => w.leaveQueues c claim.members
  | .granted =>
    let mark := markEnded claim.order cause (untakenMembers claim).length
    let w := w.onDu (fun du =>
      { du with queue := du.queue.map mark, staged := du.staged.map mark, taken := du.taken.map mark })
    (untakenMembers claim).foldl (dealMember claim.tag cause) w

/-- R29: the better standing of two claims: HOT before NORMAL, then the earlier acceptance. -/
def better (a b : Claim) : Bool :=
  match a.priority, b.priority with
  | .hot, .normal => true
  | .normal, .hot => false
  | _, _ => decide (a.order < b.order)

/-- Inserts a claim into a list ordered by a strict order. -/
def insertBy (lt : Claim → Claim → Bool) (p : Nat × Claim) : List (Nat × Claim) → List (Nat × Claim)
  | [] => [p]
  | q :: l => if lt p.2 q.2 then p :: q :: l else q :: insertBy lt p l

/-- Claims in a strict order. -/
def sortBy (lt : Claim → Claim → Bool) (l : List (Nat × Claim)) : List (Nat × Claim) :=
  l.foldr (insertBy lt) []

/-- R42: several claims end in one event in order of acceptance, earliest first. -/
def endClaims (w : Work) (l : List (Nat × Claim)) (cause : EndCause) (silent : Bool) : Work :=
  (sortBy (fun a b => decide (a.order < b.order)) l).foldl (fun w p => w.endClaim p.1 p.2 cause silent) w

/-- The WAITING claims in a record's queue. -/
def queuedClaims (a : Account) (r : Nat) : List (Nat × Claim) :=
  (((a.record r).map (·.claimQueue)).getD []).filterMap (fun c => (Table.lookup a.claims c).map (fun x => (c, x)))

/-- R46, R47: every WAITING claim in a record's queue ends. -/
def endQueued (w : Work) (r : Nat) (cause : EndCause) : Work :=
  w.endClaims (queuedClaims w.acct r) cause false

/-- R45: every open claim of a scanner ends. -/
def endScanner (w : Work) (k : Scanner) (cause : EndCause) (silent : Bool) : Work :=
  w.endClaims (w.acct.claims.filter (fun p => decide (p.2.tool = k))) cause silent

/-! #### Entry to UNVERIFIED (R145 to R147) -/

/-- R114: an UNKNOWN intake port becomes EMPTY when no UNVERIFIED record any longer has it as last-known
place. Where none ever had, an INBOUND record having been read elsewhere, this is judged at the next RESOLVE, EXPUNGE
or settling read of any record (DESIGN CHOICE, log 40). -/
def recheckIntake (w : Work) : Work :=
  if w.acct.sm.intake = .unknown ∧ w.acct.records.all (fun p => decide (p.2.lastKnown ≠ some .intakePort)) then
    w.onSm (fun sm => { sm with intake := .empty })
  else w

/-- R147: the place a record had is handed to its owner. -/
def handPlace (w : Work) (r : Nat) (id : Ident) (place : Option Place) : Work :=
  match place with
  | some (.slot s) => (w.setSlot s .unknown).tryStaging
  | some .intakePort => (w.onSm (fun sm => { sm with intake := .unknown })).tryStaging
  | some (.exchange k) => w.doubtPosition k
  | some .station =>
    match w.acct.qu.station with
    | .inspecting _ =>
      ((w.onQu (fun q => { q with station := .empty, watchdog := none, abandoned := some r })).notify .ins
        (.inspectAbandoned id r)).tryStaging
    | .finished _ =>
      ((w.onQu (fun q => { q with station := .empty })).onDu (fun du => { du with waitStation := false })).tryStaging
    | _ => w
  | some .handler => w.onDu (fun du => { du with taken := du.taken.map (fun m => { m with subject := none }) })
  | _ => w

/-- R145, R146: a record enters UNVERIFIED, up to the end of the claim it binds. `concerned` is the place its
cause concerns, `lastKnown` the place the cause names, `ownPlace` false where the rule of the cause sets the place
it had. The record's move is withdrawn here, before that claim ends, so an ACCESS notice of the position it leaves comes
before the CLAIM_ENDED notice at the same tool port (DESIGN CHOICE, log 11). A WAITING claim that names the record and is
held for room stays so until it is next checked (DESIGN CHOICE, log 54). -/
def enterDoubt (w : Work) (r : Nat) (cause : DoubtCause) (concerned : Place) (lastKnown : Option Place)
    (move : Option Nat) (ownPlace : Bool) : Work :=
  match w.acct.record r with
  | none => w
  | some rec =>
    let w := (w.onRecord r (fun x =>
      { x with
        custody := .unverified, place := none, lastKnown := lastKnown, holder := none,
        retirePending := x.retirePending || decide (x.custody = .outbound) })).recordPage r
    let w := w.notify .sup (.unverified rec.ident r cause concerned lastKnown move)
    let w := match rec.custody, rec.holder with
      | .issued, some k => w.leaveList k r
      | _, _ => w
    let w := (w.unlist r).onDu (fun du =>
      { du with waitFetch := du.waitFetch.filter (· ≠ r), waitCustody := du.waitCustody.filter (· ≠ r) })
    let w := w.withdrawNaming r
    if ownPlace then w.handPlace r rec.ident rec.place else w

/-- R47, R145: the open GRANTED claim that holds the record untaken ends FAILED. -/
def failClaim (w : Work) (r : Nat) : Work :=
  match w.acct.grantedFor r with
  | some (c, claim) => w.endClaim c claim .failed false
  | none => w

/-- R145, R146: a record enters UNVERIFIED. -/
def enterUnverified (w : Work) (r : Nat) (cause : DoubtCause) (concerned : Place) (lastKnown : Option Place)
    (move : Option Nat) (ownPlace : Bool) : Work :=
  (w.enterDoubt r cause concerned lastKnown move ownPlace).failClaim r

/-! #### Deletion (R11) -/

/-- R28: a deleted record's member entries name no record any more. -/
def forgetMember (r : Nat) (c : Claim) : Claim :=
  { c with members := c.members.map (fun m => if m.record = some r then { record := none, taken := true } else m) }

/-- R11: a record is deleted: its number and identity are free, its page is queued as an erase, and the last
abandoned record is forgotten with it (R140). -/
def deleteRecord (w : Work) (r : Nat) : Work :=
  (((w.onAcct (fun a =>
    { a with
      records := Table.remove a.records r
      claims := a.claims.map (fun p => (p.1, forgetMember r p.2)) })).unlist r).onQu (fun q =>
        { q with abandoned := if q.abandoned = some r then none else q.abandoned })).recordPage r

/-! #### Comparison (R5) -/

/-- R5: a limit has been reached. -/
def overLimit (a : Account) (rec : Record) : Bool :=
  decide (a.effExp rec ≤ rec.expCount) || decide (a.effAge rec ≤ rec.age)

/-- R131: which limit. -/
def limitOf (a : Account) (rec : Record) : LimitReached :=
  if a.effExp rec ≤ rec.expCount then (if a.effAge rec ≤ rec.age then .both else .exposure) else .age

/-- R5: a comparison of one record sets due. -/
def comparisonSets (a : Account) (r : Nat) : Bool :=
  match a.record r with
  | some rec => !rec.due && overLimit a rec
  | none => false

/-- R21, R131: the DUE notices of a record, to the supervisor and, if ISSUED, to the holder. -/
def dueNotices (w : Work) (r : Nat) (limit : LimitReached) (toSup : Bool) : Work :=
  match w.acct.record r with
  | none => w
  | some rec =>
    let n := Notice.due rec.ident r rec.custody limit rec.age rec.expCount
    let w := if toSup then w.notify .sup n else w
    match rec.custody, rec.holder with
    | .issued, some k => w.notify (.tool k) n
    | _, _ => w

end Work

end Sys2Proof.Machine
end

