-- ==== Sys2Proof/Machine/Settle.lean ====
section
/-! DEFINITION. What an event settles before it ends: free entries are given to the owners waiting for them
(R59), claims brought up are examined (R36 to R38), handed records are routed (R132, R133), a NO_SLOT hold is
redirected and staging tried (R61 to R63, R71), and the intake gate is judged (R116). The order of these is
log 11's. -/

namespace Sys2Proof.Machine.Work

/-! ### Room given to waiting owners (R59, groups 1 to 3 and 5) -/

/-- R59: the dispatch queue has a free entry. -/
def hasRoom (w : Work) : Bool := decide (0 < w.acct.freeEntries)

/-- R59 group 1: a RETURN for a TENDERED position, a RECOVER for a RECALLED one. -/
def giveExchange (w : Work) (k : Scanner) : Work :=
  if w.hasRoom then
    let w := w.onDu (fun du => { du with waitExchange := du.waitExchange.filter (· ≠ k) })
    match (w.acct.xu[k]).position with
    | .recalled r => w.addMove .recover (some r) (.exchange k) .choose .normal none
    | .tendered r => w.addMove .returnPod (some r) (.exchange k) .choose .normal none
    | _ => w
  else w

/-- R59 group 2, R141: the FROM_STATION move of a FINISHED station, its priority judged now. -/
def giveStation (w : Work) : Work :=
  if w.hasRoom && w.acct.du.waitStation then
    let w := w.onDu (fun du => { du with waitStation := false })
    match w.acct.qu.station with
    | .finished (some r) => w.addMove .fromStation (some r) .station .choose (w.acct.stationPriority r) none
    | _ => w
  else w

/-- R41, R59 group 3: a redirected member's FETCH is queued again from its slot, with the same cause claim and
the claim's current priority. -/
def giveFetch (w : Work) (r : Nat) : Work :=
  if w.hasRoom then
    let w := w.onDu (fun du => { du with waitFetch := du.waitFetch.filter (· ≠ r) })
    match (w.acct.record r).bind (·.place), w.acct.grantedFor r with
    | some place, some (_, c) =>
      w.addMove .fetch (some r) place (.at (.exchange c.tool)) c.priority
        (some { tool := c.tool, tag := c.tag, order := c.order, ended := none })
    | _, _ => w
  else w

/-- R10, R59 group 5: CT's waiting move of a record: RETIRE of an OUTBOUND one, INTAKE of an INBOUND one
(log 16). While a move, a VERIFY of its slot, names the record it goes on waiting (R57, R120; log 39). -/
def giveCustody (w : Work) (r : Nat) : Work :=
  if w.hasRoom && !w.acct.named r then
    let w := w.onDu (fun du => { du with waitCustody := du.waitCustody.filter (· ≠ r) })
    match w.acct.record r with
    | some rec =>
      match rec.custody, rec.place with
      | .outbound, some place => w.addMove .retire (some r) place (.at .outtakePort) .normal none
      | .inbound, some place => w.addMove .intake (some r) place .choose .normal none
      | _, _ => w
    | none => w
  else w

/-- R59, groups 1 to 3. -/
def giveFirst (w : Work) : Work :=
  if w.todo.offer then
    let w := w.acct.du.waitExchange.foldl giveExchange w
    let w := w.giveStation
    w.acct.du.waitFetch.foldl giveFetch w
  else w

/-- R59, group 5. -/
def giveRetirements (w : Work) : Work :=
  if w.todo.offer then w.acct.du.waitCustody.foldl giveCustody w else w

/-! ### Grants (R36 to R38) -/

/-- R36, conditions 1 to 3 for one member. -/
def memberReady (a : Account) (c : Nat) (m : Member) : Bool :=
  match m.record with
  | none => false
  | some r =>
    match a.record r with
    | none => false
    | some rec =>
      decide (rec.claimQueue.head? = some c) && decide (rec.custody = .stored) && !rec.due
        && decide (rec.held = .none) && !rec.rejected && !rec.retirePending && !a.named r

/-- R36, conditions 1 to 4. -/
def grantReady (a : Account) (c : Nat) (claim : Claim) : Bool :=
  claim.members.all (memberReady a c) && a.enabled claim.tool && a.reachable claim.tool

/-- R38: one member of a granted claim becomes ALLOTTED and its FETCH is queued. -/
def allot (claim : Claim) (w : Work) (r : Nat) : Work :=
  match w.acct.record r with
  | none => w
  | some rec =>
    let w := w.onRecord r (fun x => { x with custody := .allotted, holder := some claim.tool })
    match rec.place with
    | some place =>
      w.addMove .fetch (some r) place (.at (.exchange claim.tool)) claim.priority
        (some { tool := claim.tool, tag := claim.tag, order := claim.order, ended := none })
    | none => w

/-- R36: a check has found one of conditions 1 to 4 failing: the claim leaves the claims held for room. -/
def leaveRoom (w : Work) (c : Nat) : Work := w.onClaim c (fun x => { x with heldForRoom := false })

/-- R37, R38: a grant has made the next entry of a member's queue its head, and the head is checked. The member is
ALLOTTED, so the check finds condition 2 of R36 failing. -/
def checkNewHead (w : Work) (r : Nat) : Work :=
  match (w.acct.record r).bind (·.claimQueue.head?) with
  | some c => w.leaveRoom c
  | none => w

/-- R38: a grant, with the check of each queue's new head. -/
def grant (w : Work) (c : Nat) (claim : Claim) : Work :=
  let w := w.onClaim c (fun x => { x with state := .granted, heldForRoom := false })
  let members := claim.members.filterMap (·.record)
  let w := members.foldl (fun w r =>
    w.onRecord r (fun x => { x with claimQueue := x.claimQueue.filter (· ≠ c) })) w
  let w := members.foldl (allot claim) w
  let w := members.foldl checkNewHead w
  w.notify (.tool claim.tool) (.granted claim.tag claim.members.length)

/-- R36, R37: a WAITING claim is examined: granted, held for room, or left waiting. -/
def examine (w : Work) (c : Nat) : Work :=
  match Table.lookup w.acct.claims c with
  | none => w
  | some claim =>
    if claim.state = .waiting then
      if grantReady w.acct c claim then
        if claim.members.length ≤ w.acct.freeEntries then w.grant c claim
        else w.onClaim c (fun x => { x with heldForRoom := true })
      else w.leaveRoom c
    else w

/-- R37, R59: the event has freed an entry that groups 1 to 3 have not taken, and offers it to the claims held for
room. -/
def offersGrants (w : Work) : Bool := w.todo.freed && w.hasRoom

/-- R37: the claims an event brings up, with the claims held for room where a freed entry is offered to them, are
examined in order of standing, the best first. -/
def checkGrants (w : Work) : Work :=
  let up := w.acct.claims.filter (fun p =>
    w.todo.broughtUp.contains p.1 || (w.offersGrants && p.2.heldForRoom))
  (sortBy better up).foldl (fun w p => w.examine p.1) w

/-! ### Due routing (R132, R133) -/

/-- R132: routable; INSPECT routes a rejected record as though it were not rejected (R134). -/
def routable (a : Account) (r : Nat) (byInspect : Bool) : Bool :=
  match a.record r with
  | none => false
  | some rec =>
    decide (rec.custody = .stored) && rec.due && decide (rec.held = .none) && (!rec.rejected || byInspect)
      && !rec.retirePending && !a.named r

/-- R132: a free entry, and fewer than four TO_STATION moves in the dispatch. -/
def stationRoom (w : Work) : Bool := w.hasRoom && decide (w.acct.toStationMoves < Config.stationLead)

/-- R132: a TO_STATION move is queued, HOT where the record's claim queue holds a HOT claim. -/
def addToStation (w : Work) (r : Nat) : Work :=
  match (w.acct.record r).bind (·.place) with
  | some place => w.addMove .toStation (some r) place (.at .station) (w.acct.stationPriority r) none
  | none => w

/-- R132: a record handed to the Qualification Unit is routed, listed, or left as it is. -/
def route (w : Work) (h : Nat × Bool) : Work :=
  if routable w.acct h.1 h.2 then
    if h.1 ∈ w.acct.qu.routing then w
    else if w.stationRoom then w.addToStation h.1
    else w.onQu (fun q => { q with routing := q.routing ++ [h.1] })
  else w

/-- R133: one listed record is offered its move. A record named by another move keeps its place (R57). A rejected
record is listed by INSPECT alone (R134), so its rejection is no bar here. -/
def offerListed (w : Work) (r : Nat) : Work :=
  if w.stationRoom && routable w.acct r true then
    (w.unlist r).addToStation r
  else w

/-- R133: the routing list is offered, records with a HOT claim first. -/
def offerRouting (w : Work) : Work :=
  if w.todo.offer then
    let hot := w.acct.qu.routing.filter (fun r => w.acct.hotClaimed r)
    let rest := w.acct.qu.routing.filter (fun r => !w.acct.hotClaimed r)
    (hot ++ rest).foldl offerListed w
  else w

/-! ### Staging (R61 to R63) -/

/-- R62: a slot can be chosen for a move bound for "slot to be chosen". -/
def choosable (a : Account) (m : Move) : Bool :=
  decide (m.dest = .choose) && (a.chooseSlot m.subject m.leftSlots none).isSome

/-- R62: a pod can be fetched from an exchange position: its interlock is clear. -/
def sourceClear (a : Account) (m : Move) : Bool :=
  match m.source with
  | .exchange k => !(a.xu[k]).interlock
  | _ => false

/-- R62: the slot a RELOCATE is given is free, and no VERIFY of it is STAGED or taken. -/
def relocatable (a : Account) (s : Nat) : Bool :=
  a.freeSlot s && (a.du.staged.toList ++ a.du.taken.toList).all (fun x =>
    !(decide (x.kind = .verify) && decide (x.source = .slot s)))

/-- R62, R86: a position consents to a FETCH now. -/
def consents (a : Account) (k : Scanner) : Bool :=
  let x := a.xu[k]
  decide (x.position = .empty) && (x.returnList.isEmpty || x.lapse) && !x.interlock && a.enabled k

/-- R62: the move can be carried out now. A move's destination is the one its kind is queued with (R56). -/
def eligible (a : Account) (m : Move) : Bool :=
  match m.kind with
  | .intake => choosable a m
  | .fromStation => choosable a m
  | .returnPod => choosable a m && sourceClear a m
  | .recover => choosable a m && sourceClear a m
  | .fetch =>
    match m.dest with
    | .at (.exchange k) => consents a k
    | _ => false
  | .toStation => decide (m.dest = .at .station) && decide (a.qu.station = .empty)
  | .retire =>
    decide (m.dest = .at .outtakePort) && !a.sm.outtakeOccupied
      && (a.du.staged.toList ++ a.du.taken.toList).all (fun x => decide (x.kind ≠ .retire))
  | .relocate =>
    match m.dest with
    | .at (.slot s) => relocatable a s
    | _ => choosable a m
  | .verify =>
    decide (m.dest = .absent) &&
      match m.source with
      | .slot s =>
        match a.slot s with
        | .expected _ => false
        | _ => true
      | _ => false

/-- R63: the destination fixed at staging. -/
def fixedDest (a : Account) (m : Move) : Dest :=
  match m.dest with
  | .choose =>
    match a.chooseSlot m.subject m.leftSlots none with
    | some n => .at (.slot n)
    | none => .choose
  | d => d

/-- R63, R86: the place a staged move will use is marked. -/
def markDest (w : Work) (m : Move) : Work :=
  match m.dest with
  | .at (.slot n) => w.setSlot n (.expected m.number)
  | .at (.exchange k) => w.onXu k (fun x => { x with position := .incoming, lapse := false })
  | .at .station => w.onQu (fun q => { q with station := .expected })
  | _ => w

/-- The place of a destination, if it is one. -/
def destPlace : Dest → Option Place
  | .at p => some p
  | _ => none

/-- R63: a move becomes STAGED. -/
def stageMove (w : Work) (m : Move) : Work :=
  let staged : Move := { m with dest := fixedDest w.acct m, state := .staged }
  let w := w.onDu (fun du =>
    { du with queue := du.queue.filter (fun x => x.number ≠ m.number), staged := some staged })
  (w.markDest staged).notify .hdl
    (.moveStaged m.number m.kind (m.subject.map w.acct.identOf) m.source (destPlace staged.dest))

/-- R71, R113: a taken move HOLDING with cause NO_SLOT is redirected once a slot can be chosen. -/
def redirectNoSlot (w : Work) : Work :=
  match w.acct.du.taken with
  | some m =>
    if m.state = .holding .noSlot then
      match w.acct.chooseSlot m.subject m.leftSlots none with
      | some n =>
        (((w.setSlot n (.expected m.number)).onDu (fun du =>
          { du with taken := some { m with dest := .at (.slot n), state := .carrying } })).startWatchdog).notify .hdl
          (.redirect m.number n)
      | none => w
    else w
  | none => w

/-- R61: the first eligible QUEUED move is staged, when the STAGED place is empty, the dispatch RUNNING and the
handler port's link UP. -/
def stageFirst (w : Work) : Work :=
  if w.acct.du.staged = none ∧ w.acct.du.state = .running ∧ w.acct.up.hdl = true then
    match w.acct.du.queue.find? (eligible w.acct) with
    | some m => w.stageMove m
    | none => w
  else w

/-- R61, R113: the redirect of a NO_SLOT hold is made before staging is tried. -/
def settleStaging (w : Work) : Work := if w.todo.stage then w.redirectNoSlot.stageFirst else w

/-! ### The intake gate (R116) -/

/-- R116: the gate is judged; a change sends a GATE notice. -/
def judge (w : Work) : Work :=
  let free := w.acct.freeSlots
  let isOpen := decide (w.acct.settings.reserve < free)
  if isOpen = w.acct.sm.gateOpen then w
  else (w.onSm (fun sm => { sm with gateOpen := isOpen })).notify .sup (.gate isOpen free w.acct.settings.reserve)

def settleGate (w : Work) : Work := if w.todo.gate then w.judge else w

/-- An event settles, in the order of log 11. -/
def settle (w : Work) : Work :=
  let w := w.giveFirst.checkGrants.giveRetirements.offerRouting
  let w := w.todo.handed.foldl route w
  w.settleStaging.settleGate

end Sys2Proof.Machine.Work
end

