-- ==== Sys2Proof/Machine/Retention.lean ====
section
/-! DEFINITION. The Retention Store: page images, the write-back queue, programs, remaps, the clean mark, the
format pass and the reload (chapter 8), and how an event's work is committed to the state. -/

namespace Sys2Proof.Machine

/-! ### Page images (R163, R164) -/

/-- R163: the retained content of a record. -/
def retainedOf (rec : Record) : Retained where
  ident := rec.ident
  classCode := rec.classCode
  home := rec.home
  expLimit := rec.expLimit
  ageLimit := rec.ageLimit
  expCount := rec.expCount
  age := rec.age
  due := rec.due
  held := rec.held
  rejected := rec.rejected
  retirePending := rec.retirePending
  lastInspection := rec.lastInspection
  state := if rec.custody = .allotted then .stored else rec.custody
  place := if rec.custody = .unverified then rec.lastKnown else rec.place

/-- R163, R164, R168: the image of a page as the live account stands; a header image carries the mark clear. -/
def imageOf (a : Account) : PageId → Content
  | .header => .header a.settings false
  | .record n =>
    match a.record n with
    | some rec => .record n (retainedOf rec)
    | none => .erased n

namespace RetentionStore

/-! ### The array (R162) -/

/-- The page standing at a place of the array. -/
def pageAt (st : RetentionStore) : PagePlace → Page
  | .own .header => st.headerPage
  | .own (.record n) => Table.getD st.recordPages n (.readable (.erased n))
  | .spare i => Table.getD st.sparePages i (.readable .free)

/-- Writes a page at a place of the array. -/
def writeAt (st : RetentionStore) (pl : PagePlace) (pg : Page) : RetentionStore :=
  match pl with
  | .own .header => { st with headerPage := pg }
  | .own (.record n) => { st with recordPages := Table.putD st.recordPages n (.readable (.erased n)) pg }
  | .spare i => { st with sparePages := Table.putD st.sparePages i (.readable .free) pg }

/-- R167, R169: the spares that replace a page, ascending. -/
def sparesOf (st : RetentionStore) (p : PageId) : List Nat :=
  st.spareMap.filterMap (fun e => if e.2 = .replaces p then some e.1 else none)

/-- R167: from a remap on, every program of a page goes to its latest spare, which is the highest-numbered assigned to
it, as at a reload (R169). That this holds too where a remap after a reload gives a page a lower-numbered spare is the
model's (DESIGN CHOICE, log 47). -/
def placeOf (st : RetentionStore) (p : PageId) : PagePlace :=
  match (st.sparesOf p).getLast? with
  | some i => .spare i
  | none => .own p

/-- R173: during a format pass only spares the pass has already written FREE may be taken. -/
def spareReached (st : RetentionStore) (i : Nat) : Bool :=
  match st.format with
  | none => true
  | some .waiting => false
  | some .firstHeader => false
  | some (.spare j) => decide (i < j)
  | some (.record _) => true
  | some .lastHeader => true

/-- R167: the spares that are FREE and may be taken, ascending. -/
def freeSpares (st : RetentionStore) : List Nat :=
  (List.range Config.spareCount).filter (fun i =>
    decide (Table.getD st.spareMap i .free = .free) && st.spareReached i)

/-- R166: the programming state. -/
def programming (st : RetentionStore) (power : Power) : ProgrammingState :=
  if power = .running then
    match st.inFlight, st.stage with
    | none, _ => .idle
    | some _, none => .programming
    | some _, some _ => .programmingStaged
  else .reloading

/-- R168: the queue is drained: empty in IDLE. -/
def drained (st : RetentionStore) : Bool := st.queue.isEmpty && st.inFlight.isNone && st.format.isNone

end RetentionStore

namespace State

def onStore (s : State) (f : RetentionStore → RetentionStore) : State := { s with store := f s.store }
def onAcct (s : State) (f : Account → Account) : State := { s with acct := f s.acct }

/-- R188: a notice goes to a port. -/
def notify (s : State) (p : Port) (n : Notice) : State :=
  s.onAcct (fun a => { a with notices := a.notices.modify p (fun ns => ns.enter n) })

/-- R12: the retention status of a record. -/
def setRetention (s : State) (n : Nat) (v : Retention) : State :=
  s.onAcct (fun a => { a with records := Table.modify a.records n (fun rec => { rec with retention := v }) })

/-! ### Programs and the stage buffer (R166) -/

/-- R166: outside a format pass, while a program is in flight, the head of the queue is staged. -/
def restage (s : State) : State :=
  s.onStore (fun st =>
    { st with
      stage :=
        if st.inFlight.isSome && st.format.isNone then st.queue.head?.map (fun p => (p, imageOf s.acct p)) else none })

/-- R166: the image with which the head's program starts: the staged one where it is staged. -/
def headImage (s : State) (p : PageId) : Content :=
  match s.store.stage with
  | some (q, c) => if q = p then c else imageOf s.acct p
  | none => imageOf s.acct p

/-- R166: the program of the queue's head starts, the page leaves the queue, and the next head is staged. -/
def startHead (s : State) : State :=
  match s.store.queue with
  | [] => s
  | p :: rest =>
    (s.onStore (fun st =>
      { st with
        inFlight := some { purpose := .page p, place := st.placeOf p, image := s.headImage p, secondTry := false }
        queue := rest
        stage := none })).restage

/-- R165: the header page is placed at the head of the queue. -/
def headerFirst (q : List PageId) : List PageId := .header :: q.filter (fun p => decide (p ≠ .header))

def isRecordPage : PageId → Bool
  | .record _ => true
  | .header => false

/-- R165: while the clean mark is set, the header page stands at the head of a queue that holds a record page. -/
def ordered (mark : Bool) (q : List PageId) : List PageId :=
  if mark && q.any isRecordPage then headerFirst q else q

/-- R165: a page enters the queue at the tail, or keeps its place; a record page that joins while the clean
mark is set brings the header to the head, and a header that joins a queue of record pages then goes there itself
(log 19). -/
def enqueue (s : State) (p : PageId) : State :=
  if p ∈ s.store.queue then s
  else s.onStore (fun st => { st with queue := ordered st.mark (st.queue ++ [p]) })

/-- R12, R167: a record whose page is handed over becomes QUEUED; one whose page is owed is UNRETAINED (log 36). -/
def markQueued (s : State) : PageId → State
  | .record n => s.setRetention n (if .record n ∈ s.store.owed then .unretained else .queued)
  | .header => s

/-- R12, R165, R166: a page is handed over. In IDLE the head's program starts; during a format pass the page
waits (R173); otherwise the stage image is built afresh. -/
def handOver (s : State) (p : PageId) : State :=
  let s := (s.markQueued p).enqueue p
  if s.store.format.isSome then s
  else if s.store.inFlight.isNone then s.startHead
  else s.restage

/-- R168: the queue drains, or is found drained, with the SYNC request yes. Where a page is owed while the mark is set,
SPARES_EXHAUSTED is sent and not CLEAN (DESIGN CHOICE, log 52). -/
def drain (s : State) : State :=
  let s' := s.onStore (fun st => { st with syncRequest := false })
  if s.store.owed.isEmpty then
    if s.store.mark then s'.notify .sup (.retention .clean)
    else
      s'.onStore (fun st =>
        { st with
          inFlight := some
            { purpose := .page .header, place := st.placeOf .header, image := .header s.acct.settings true,
              secondTry := false } })
  else s'.notify .sup (.retention (.sparesExhausted none s.store.owed.length))

/-- R166, R168: outside a format pass the programming state moves on: the head's program starts, or the state
is IDLE and a SYNC request is met. -/
def proceedQueue (s : State) : State :=
  match s.store.queue with
  | _ :: _ => s.startHead
  | [] => if s.store.syncRequest then s.restage.drain else s.restage

/-! ### The format pass (R173) -/

/-- The step after a step of the pass; none after the last header. -/
def nextStep : FormatStep → Option FormatStep
  | .waiting => some .firstHeader
  | .firstHeader => some (.spare 0)
  | .spare i => if i + 1 < Config.spareCount then some (.spare (i + 1)) else some (.record 0)
  | .record n => if n + 1 < Config.recordCount then some (.record (n + 1)) else some .lastHeader
  | .lastHeader => none

/-- R173: the program of a step. The last header carries the mark set only if no page is queued. -/
def stepProgram (s : State) : FormatStep → Option Program
  | .waiting => none
  | .firstHeader =>
    some { purpose := .page .header, place := s.store.placeOf .header, image := .header .format false,
           secondTry := false }
  | .spare i => some { purpose := .freeSpare, place := .spare i, image := .free, secondTry := false }
  | .record n =>
    some { purpose := .page (.record n), place := s.store.placeOf (.record n), image := .erased n, secondTry := false }
  | .lastHeader =>
    some { purpose := .page .header, place := s.store.placeOf .header,
           image := .header s.acct.settings s.store.queue.isEmpty, secondTry := false }

/-- R173: a step of the pass begins. -/
def beginStep (s : State) (f : FormatStep) : State :=
  s.onStore (fun st => { st with format := some f, inFlight := s.stepProgram f, stage := none })

/-- R166, R173: no program is in flight; the pass, or the queue, goes on. -/
def moveOn (s : State) : State :=
  match s.store.format with
  | some f =>
    match nextStep f with
    | some g => s.beginStep g
    | none => (s.onStore (fun st => { st with format := none })).proceedQueue
  | none => s.proceedQueue

/-! ### Completion of a program (R166, R167) -/

/-- The record of a page whose program passed verify: CLEAN, unless the page was handed over again (R166), when it is
QUEUED, even if it was owed (DESIGN CHOICE, log 48). The program of an erase leaves the status of a later record of that
number as it is (DESIGN CHOICE, log 49). -/
def recordDone (s : State) (p : PageId) (image : Content) : State :=
  match p, image with
  | .record n, .record _ _ => s.setRetention n (if p ∈ s.store.queue then .queued else .clean)
  | _, _ => s

/-- R165, R168, R173: what a header's mark brings: the mark as it stands in the array, the CLEAN notice, the
SYNC request met by the last header of a format pass, and the header at the head again where record pages are
queued. -/
def headerDone (s : State) (image : Content) : State :=
  match image with
  | .header _ true =>
    (s.onStore (fun st =>
      { st with
        mark := true
        syncRequest := if st.format = some .lastHeader then false else st.syncRequest
        queue := ordered true st.queue })).notify .sup (.retention .clean)
  | .header _ false => s.onStore (fun st => { st with mark := false })
  | _ => s

/-- R166, R167: a program passes verify: its page is current, a debt is discharged, and the programming state
moves on. -/
def programPassed (s : State) (pr : Program) : State :=
  let s := s.onStore (fun st => { st.writeAt pr.place (.readable pr.image) with inFlight := none })
  match pr.purpose with
  | .page p =>
    let s := s.onStore (fun st => { st with owed := st.owed.filter (fun q => decide (q ≠ p)) })
    ((s.recordDone p pr.image).headerDone pr.image).moveOn
  | .freeSpare => s.moveOn
  | .badSpare => s.moveOn

/-- R167: the failed spare is written BAD by one further program. -/
def startBad (s : State) (i : Nat) : State :=
  (s.onStore (fun st =>
    { st with
      spareMap := Table.put st.spareMap i .bad
      inFlight := some { purpose := .badSpare, place := .spare i, image := .bad, secondTry := false } })).restage

/-- R167: a page's second failure: it is remapped to the lowest FREE spare, or owed. An owed page is not queued again,
a header that was to clear the mark among them: the pages behind it go on (DESIGN CHOICE, log 46). A page owed already is
remapped, with its notice, where a spare has become FREE since (DESIGN CHOICE, log 53). -/
def remap (s : State) (p : PageId) (failedAt : PagePlace) : State :=
  match s.store.freeSpares with
  | i :: others =>
    let s := (s.onStore (fun st => { st with spareMap := Table.put st.spareMap i (.replaces p) })).enqueue p
    let s := s.notify .sup (.retention (.remapped p others.length))
    match failedAt with
    | .spare j => s.startBad j
    | .own _ => s.moveOn
  | [] =>
    if p ∈ s.store.owed then s.moveOn
    else
      let s := s.onStore (fun st => { st with owed := st.owed ++ [p] })
      let s := match p with
        | .record n => s.setRetention n .unretained
        | .header => s
      (s.notify .sup (.retention (.sparesExhausted (some p) s.store.owed.length))).moveOn

/-- R162: the page of a program that was cut short or failed is unreadable, or keeps its former content: a
free value (log 10). The first header of a format pass never leaves the header it replaces (R173); before that program
has begun the header is as it was (log 42). -/
def spoil (s : State) (pl : PagePlace) : State :=
  if s.store.format = some .firstHeader then s.onStore (fun st => st.writeAt pl .unreadable)
  else
    let s' := { s with freeIndex := s.freeIndex + 1 }
    if Config.keepsFormer s.freeIndex then s' else s'.onStore (fun st => st.writeAt pl .unreadable)

/-- R167: a program fails verify: it is started again once; a second failure remaps its page. A BAD program is
not repeated. A spare that a format pass fails to write FREE is treated as a failed spare (log 20). A header that
fails leaves the mark kept as it was until a header passes (log 43). -/
def programFailed (s : State) (pr : Program) : State :=
  let s := s.spoil pr.place
  match pr.purpose, pr.secondTry with
  | .badSpare, _ => (s.onStore (fun st => { st with inFlight := none })).moveOn
  | _, false => s.onStore (fun st => { st with inFlight := some { pr with secondTry := true } })
  | .page p, true => (s.onStore (fun st => { st with inFlight := none })).remap p pr.place
  | .freeSpare, true =>
    match pr.place with
    | .spare i => s.startBad i
    | .own _ => (s.onStore (fun st => { st with inFlight := none })).moveOn

/-! ### Commitment of an event's work -/

/-- An event ends: what it left to settle is settled (R59, R37, R61, R116), and the pages it handed over join
the write-back queue (R12, R165; log 12). -/
def commit (s : State) (w : Work) : State :=
  let w := w.settle
  w.todo.pages.foldl handOver { s with acct := w.acct }

/-! ### Loss of power and power-on reset (R162, R174, R187) -/

/-- The array after a program in flight was interrupted (R162). -/
def interrupt (s : State) : State :=
  match s.store.inFlight with
  | some pr => s.spoil pr.place
  | none => s

/-- R187 and the power-on values of every block over the array as it stands. The queue of waiting commands is
not the part's. -/
def powerOnValues (s : State) (power : Power) : State :=
  { s with
    power := power
    links := { ports := .all .powerOn, station := s.links.station, addressed := false }
    acct := .powerOn
    store := .powerOn s.store.headerPage s.store.recordPages s.store.sparePages s.store.mark }

end State

/-! ### Validity of pages (R162) -/

/-- A limit or optional limit in range (R4). -/
def limitOk (n : Nat) : Bool := decide (1 ≤ n) && decide (n ≤ Config.countMax)
def limitOptOk (n : Option Nat) : Bool := n.all limitOk
/-- A place in range (R4). -/
def placeOk : Place → Bool
  | .slot n => decide (n < Config.slotCount)
  | _ => true

/-- R163: the retained state and place belong together. -/
def retainedPlaceOk (r : Retained) : Bool :=
  match r.state, r.place with
  | .inbound, some .intakePort => true
  | .stored, some (.slot n) => decide (n < Config.slotCount)
  | .outbound, some (.slot n) => decide (n < Config.slotCount)
  | .inTransit, some .handler => true
  | .presented, some (.exchange _) => true
  | .tendered, some (.exchange _) => true
  | .issued, some (.tool _) => true
  | .atStation, some .station => true
  | .unverified, p => p.all placeOk
  | _, _ => false

/-- R162: every field of a record page within its range. -/
def retainedOk (r : Retained) : Bool :=
  identOk r.ident && decide (r.classCode < 65536) && r.home.all (fun h => decide (h < Config.slotCount))
    && limitOptOk r.expLimit && limitOptOk r.ageLimit && decide (r.expCount ≤ Config.countMax)
    && decide (r.age ≤ Config.countMax) && r.lastInspection.all (fun i => decide (i.defect ≤ 15)) && retainedPlaceOk r

/-- R111: a range's fields in range. -/
def rangeOk (g : ClosedRange) : Bool :=
  decide (g.first < Config.slotCount) && decide (1 ≤ g.count) && decide (g.first + g.count ≤ Config.slotCount)

/-- R162: every field of the header page within its range. -/
def settingsOk (t : Settings) : Bool :=
  t.tools.toList.all (fun x => decide (1 ≤ x.capacity) && decide (x.capacity ≤ 12))
    && decide (10 ≤ t.takeLimit) && decide (t.takeLimit ≤ 3600) && decide (5 ≤ t.holdLimit) && decide (t.holdLimit ≤ 600)
    && decide (5 ≤ t.watchdogLimit) && decide (t.watchdogLimit ≤ 600) && decide (10 ≤ t.graceLimit)
    && decide (t.graceLimit ≤ 3600) && decide (60 ≤ t.stationLimit) && decide (t.stationLimit ≤ 7200)
    && decide (t.reserve ≤ Config.reserveMax) && t.ranges.toList.all rangeOk && decide (1 ≤ t.sweepPeriod)
    && decide (t.sweepPeriod ≤ 65535) && limitOk t.defaultExpLimit && limitOk t.defaultAgeLimit

/-- R162: the page tag fits the page it stands on. -/
def tagFits : PagePlace → Content → Bool
  | .own .header, .header _ _ => true
  | .own (.record n), .record m _ => decide (m = n)
  | .own (.record n), .erased m => decide (m = n)
  | .spare _, _ => true
  | _, _ => false

/-- R162: every field of a content within its range. -/
def contentOk : Content → Bool
  | .header t _ => settingsOk t
  | .record n r => decide (n < Config.recordCount) && retainedOk r
  | .erased n => decide (n < Config.recordCount)
  | .free => true
  | .bad => true

/-- R162: the content of a page if the page is valid where it stands. -/
def validContent (pl : PagePlace) : Page → Option Content
  | .readable c => if tagFits pl c && contentOk c then some c else none
  | .unreadable => none

/-! ### Power-on reload (R169 to R172) -/

/-- R169: what a spare page becomes in the spare map. -/
def spareUseOf (st : RetentionStore) (i : Nat) : SpareUse :=
  match validContent (.spare i) (st.pageAt (.spare i)) with
  | some .free => .free
  | some .bad => .bad
  | some (.header _ _) => .replaces .header
  | some (.record n _) => .replaces (.record n)
  | some (.erased n) => .replaces (.record n)
  | none => .bad

/-- R169: the spare map is rebuilt from the spare pages. -/
def rebuildSpares (st : RetentionStore) : Table SpareUse :=
  (List.range Config.spareCount).filterMap (fun i =>
    if spareUseOf st i = .free then none else some (i, spareUseOf st i))

/-- R169: the content of the current page of a page number, if valid. -/
def currentContent (st : RetentionStore) (p : PageId) : Option Content :=
  validContent (st.placeOf p) (st.pageAt (st.placeOf p))

/-- R169: the records found, ascending, and the record pages counted unreadable. An identity carried by an
earlier page makes the later page unreadable (R25). -/
def readRecords (st : RetentionStore) : List (Nat × Retained) × List Nat :=
  (List.range Config.recordCount).foldl (fun acc n =>
    match currentContent st (.record n) with
    | some (.record _ r) =>
      if acc.1.any (fun q => decide (q.2.ident = r.ident)) then (acc.1, acc.2 ++ [n]) else (acc.1 ++ [(n, r)], acc.2)
    | some (.erased _) => acc
    | _ => (acc.1, acc.2 ++ [n])) ([], [])

/-- R170: two recreated records would settle on one slot, or on the intake port. -/
def contested (all : List (Nat × Retained)) (r : Retained) : Bool :=
  match r.state with
  | .stored => decide (1 < all.countP (fun q =>
      (decide (q.2.state = .stored) || decide (q.2.state = .outbound)) && decide (q.2.place = r.place)))
  | .outbound => decide (1 < all.countP (fun q =>
      (decide (q.2.state = .stored) || decide (q.2.state = .outbound)) && decide (q.2.place = r.place)))
  | .inbound => decide (1 < all.countP (fun q => decide (q.2.state = .inbound)))
  | _ => false

/-- R170: the retained state stands after a trusted reload. -/
def restoredSettled (all : List (Nat × Retained)) (r : Retained) : Bool :=
  (match r.state with
    | .stored => true
    | .outbound => true
    | .inbound => true
    | .issued => true
    | _ => false) && !contested all r

/-- R25, R170, R171: a record recreated from its page. -/
def recreate (trusted : Bool) (all : List (Nat × Retained)) (r : Retained) : Record :=
  let settled := trusted && restoredSettled all r
  { ident := r.ident, classCode := r.classCode
    custody := if settled then r.state else .unverified
    place := if settled then r.place else none
    lastKnown := if settled then none else r.place
    holder :=
      if settled then
        match r.state, r.place with
        | .issued, some (.tool k) => some k
        | _, _ => none
      else none
    home := r.home, expCount := r.expCount, expLimit := r.expLimit, age := r.age, ageLimit := r.ageLimit
    due := r.due, held := r.held, rejected := r.rejected
    retirePending := r.retirePending || (!trusted && decide (r.state = .outbound))
    returnRequested := false, lastInspection := r.lastInspection, claimQueue := [], retention := .clean }

/-- R110, R170, R171: the slots after the reload: UNKNOWN where a doubtful record was last known, OCCUPIED
where a settled one is (log 22), EMPTY otherwise. -/
def reloadSlots (recs : Table Record) : Table SlotState :=
  let t := recs.foldl (fun t p =>
    match p.2.lastKnown with
    | some (.slot n) => Table.put t n .unknown
    | _ => t) []
  recs.foldl (fun t p =>
    match p.2.place with
    | some (.slot n) => Table.put t n (.occupied p.1)
    | _ => t) t

/-- R114: the intake port after the reload. -/
def reloadIntake (recs : Table Record) : IntakePort :=
  match recs.find? (fun p => decide (p.2.place = some .intakePort)) with
  | some p => .occupied p.1
  | none => if recs.any (fun p => decide (p.2.lastKnown = some .intakePort)) then .unknown else .empty

/-- R105: an exchange position is UNKNOWN where a record was retained PRESENTED or TENDERED at it. A page counted
unreadable because an earlier page carries its identity (R169) retains no record here (DESIGN CHOICE, log 45). -/
def reloadPosition (all : List (Nat × Retained)) (k : Scanner) : Position :=
  if all.any (fun q =>
      (decide (q.2.state = .presented) || decide (q.2.state = .tendered)) && decide (q.2.place = some (.exchange k)))
  then .unknown else .empty

/-- R172, item 5: the reload changed a record's state, place or retire pending. -/
def reloadChanged (r : Retained) (rec : Record) : Bool :=
  decide ((retainedOf rec).state ≠ r.state) || decide ((retainedOf rec).place ≠ r.place)
    || decide (rec.retirePending ≠ r.retirePending)

namespace State

/-- R172: what R10 makes of the records restored STORED, and the moves and entries that follow: RETIRE moves of
OUTBOUND records in ascending number, then the INTAKE move, then due routing. The records that R10 makes OUTBOUND now
stand among those retained OUTBOUND (DESIGN CHOICE, log 11). -/
def afterReload (a : Account) : Work :=
  let stored := (a.records.filter (fun p => decide (p.2.custody = .stored))).map (·.1)
  let w := stored.foldl Work.applyDeferred (Work.start a)
  let outbound := (w.acct.records.filter (fun p => decide (p.2.custody = .outbound))).map (·.1)
  let inbound := (w.acct.records.filter (fun p => decide (p.2.custody = .inbound))).map (·.1)
  (w.onDu (fun du => { du with waitCustody := outbound ++ inbound })).offerRoom

/-- R172, item 5: the pages that join the queue, the header first and then in ascending order: those the policy or
R10 changed (log 44), and the erases owed for unreadable pages. -/
def reloadPages (headerLost : Bool) (changed lost : List Nat) (deferred : List PageId) : List PageId :=
  (if headerLost then [PageId.header] else [])
    ++ ((List.range Config.recordCount).filter (fun n =>
      changed.contains n || lost.contains n || deferred.contains (.record n))).map PageId.record

/-- R169 to R172: the reload ends in one event. -/
def reload (s : State) : State :=
  let st := { s.store with spareMap := rebuildSpares s.store }
  let header := currentContent st .header
  let (found, lost) := readRecords st
  let headerLost := match header with
    | some (.header _ _) => false
    | _ => true
  let trusted := match header with
    | some (.header _ mark) => mark
    | _ => false
  let settings := match header with
    | some (.header t _) => t
    | _ => Settings.format
  let recs : Table Record := found.map (fun q => (q.1, recreate trusted found q.2))
  let acct : Account :=
    { s.acct with
      records := recs
      sm := { base := .empty, slots := reloadSlots recs, intake := reloadIntake recs, outtakeOccupied := true,
              gateOpen := false }
      xu := Vector.ofFn (fun k => { s.acct.xu[k] with position := reloadPosition found k })
      qu := { s.acct.qu with
              sweepLoaded := if settings.sweepRunning then some settings.sweepPeriod else none
              sweepCounted := 0 }
      settings := settings }
  let s := { s with power := .running, acct := ((Work.start acct).judge).acct, store := { st with mark := trusted } }
  let changed := (found.filter (fun q => reloadChanged q.2 (recreate trusted found q.2))).map (·.1)
  let w := afterReload s.acct
  let s := (reloadPages headerLost changed lost w.todo.pages).foldl handOver (s.onAcct (fun _ => w.acct))
  let settled := recs.countP (fun p => decide (p.2.custody ≠ .unverified))
  let s := s.notify .sup
    (.reloadDone settled (recs.length - settled) (lost.length + (if headerLost then 1 else 0)))
  s.commit { acct := s.acct, todo := { w.todo with pages := [] } }

end State

end Sys2Proof.Machine
end

