-- ==== Sys2Proof/Machine/ResetEvents.lean ====
section
/-! DEFINITION. The events of reset, power and the page array: POWER_ON_RESET, RESET_RELEASED, RELOAD_END,
POWER_LOSS and PROGRAM_COMPLETE (R162, R166, R169 to R172, R174, R176, R187). -/

namespace Sys2Proof.Machine

/-- POWER_ON_RESET (R187, R174): RESET is low with power on; every block takes its power-on values, and a program
in flight is interrupted (log 10). -/
def execPowerOnReset (s : State) : Host.Outcome State Fault Refusal := .next (s.interrupt.powerOnValues .resetLow)

/-- RESET_RELEASED (R176, R187): the station number is read from the straps and RELOADING begins. Taken while
RELOADING it is the release that began it, and reads the straps (log 3). -/
def execResetReleased (straps : BitVec 4) (s : State) : Host.Outcome State Fault Refusal :=
  .next
    (match s.power with
      | .resetLow => { s with power := .reloading, links := { s.links with station := straps } }
      | .reloading => { s with links := { s.links with station := straps } }
      | _ => s)

/-- RELOAD_END (R172). -/
def execReloadEnd (s : State) : Host.Outcome State Fault Refusal :=
  .next (if s.power = .reloading then s.reload else s)

/-- POWER_LOSS (R162): the live account is gone, the array stays, and a program in flight is interrupted
(logs 10 and 25). -/
def execPowerLoss (s : State) : Host.Outcome State Fault Refusal := .next (s.interrupt.powerOnValues .off)

/-- PROGRAM_COMPLETE (R166, R167): the page program in flight ends; `verified` says whether it passes verify. -/
def execProgramComplete (verified : Bool) (s : State) : Host.Outcome State Fault Refusal :=
  .next
    (match s.power, s.store.inFlight with
      | .running, some pr => if verified then s.programPassed pr else s.programFailed pr
      | _, _ => s)

end Sys2Proof.Machine
end

