-- ==== Sys2Proof/Machine/Flags.lean ====
section
/-! DEFINITION. The MODIFIER character, the guards and the effects on the condition flags P and N
(R180 to R182). -/

namespace Sys2Proof.Machine

/-- R186: the guard stands in bits 7 to 4 of the MODIFIER. -/
def guardField (m : Byte) : Nat := m.toNat / 16

/-- R186: the effect stands in bits 3 to 0 of the MODIFIER. -/
def effectField (m : Byte) : Nat := m.toNat % 16

/-- The handler and inspection ports hold no condition flags (R181). -/
def holdsFlags : Port → Bool
  | .tool _ => true
  | .sup => true
  | .hdl => false
  | .ins => false

/-- R180, step 2: a guard of R182 and an effect of R181; on the handler and inspection ports ALWAYS and KEEP
alone. -/
def modifierOk (p : Port) (m : Byte) : Bool :=
  if holdsFlags p then decide (guardField m ≤ 7) && decide (effectField m ≤ 5) else decide (m = 0)

/-- R182: whether the request runs. -/
def guardTrue (m : Byte) (flagP flagN : Bool) : Bool :=
  match guardField m with
  | 0 => true
  | 1 => flagP
  | 2 => !flagP
  | 3 => flagN
  | 4 => !flagN
  | 5 => flagP && flagN
  | 6 => flagP && !flagN
  | 7 => !flagP || flagN
  | _ => false

/-- R181: P after the effect. -/
def effectP (m : Byte) (flagP test : Bool) : Bool :=
  match effectField m with
  | 1 => test
  | 3 => test
  | 4 => flagP && test
  | 5 => flagP || test
  | _ => flagP

/-- R181: N after the effect. -/
def effectN (m : Byte) (flagN : Bool) (count : Nat) : Bool :=
  match effectField m with
  | 2 => decide (count = 0)
  | 3 => decide (count = 0)
  | _ => flagN

end Sys2Proof.Machine
end

