-- ==== Sys2Proof/Machine/Requests.lean ====
section
/-! DEFINITION. Taking a request: the steps of R180, the effect on the flags (R181), the guard (R182) and the
response (R179, R186). Every request meaning is a judgement given to `takeRequest`. -/

namespace Sys2Proof.Machine

/-- What a request answers DONE with: test, count and payload (R181, R186). -/
structure Reply where
  test : Bool
  count : Nat
  payload : Payload := .nothing
deriving DecidableEq, Repr

/-- R180, step 7: what a request's own rule decides. `quiet` where its effect is not applied (R183). -/
inductive Judged where
  | refused (o : Outcome) (s : State)
  | done (s : State) (r : Reply) (quiet : Bool)
deriving Repr

/-- The catalogue's codes (R184). -/
inductive Code where
  | query | claim | cancel | taken | release | put | exposed | toolStatus
  | register | retire | hold | unhold | rewrite | amend | readRecord | find | promote | inspect | relocate | audit
  | resolve | expunge | clearExchange | closeRange | openRange | outtakeCleared | setTool | setTimers | setDefaults
  | setReserve | setSweep | startSweep | stopSweep | pause | resume | clear | sync | format | identify
  | take | picked | placed | read | progress | fault | result | setFlags | fetchNotice | clearSummary | setAttention
deriving DecidableEq, Repr

/-- R184: the catalogue. -/
def catalogue : List (Nat × Code) :=
  [ (0x01, .query), (0x02, .claim), (0x03, .cancel), (0x04, .taken), (0x05, .release), (0x06, .put), (0x07, .exposed),
    (0x08, .toolStatus), (0x10, .register), (0x11, .retire), (0x12, .hold), (0x13, .unhold), (0x14, .rewrite),
    (0x15, .amend), (0x16, .readRecord), (0x17, .find), (0x18, .promote), (0x19, .inspect), (0x1A, .relocate),
    (0x1B, .audit), (0x1C, .resolve), (0x1D, .expunge), (0x1E, .clearExchange), (0x1F, .closeRange) ]
  ++ [ (0x20, .openRange), (0x21, .outtakeCleared), (0x22, .setTool), (0x23, .setTimers), (0x24, .setDefaults),
    (0x25, .setReserve), (0x26, .setSweep), (0x27, .startSweep), (0x28, .stopSweep), (0x29, .pause), (0x2A, .resume),
    (0x2B, .clear), (0x2C, .sync), (0x2D, .format), (0x2E, .identify), (0x30, .take), (0x31, .picked), (0x32, .placed),
    (0x33, .read), (0x34, .progress), (0x35, .fault), (0x38, .result), (0x40, .setFlags), (0x41, .fetchNotice),
    (0x42, .clearSummary), (0x43, .setAttention) ]

/-- The code character of a request. -/
def Code.byte (c : Code) : Byte :=
  match catalogue.find? (fun e => decide (e.2 = c)) with
  | some e => BitVec.ofNat 8 e.1
  | none => 0

/-- The request a code character names, if it is in the catalogue. -/
def codeOf (b : Byte) : Option Code :=
  (catalogue.find? (fun e => decide (e.1 = b.toNat))).map (·.2)

/-- R184: the ports a request is permitted on. -/
def permitted (c : Code) (p : Port) : Bool :=
  match p with
  | .tool _ =>
    decide (c ∈ [Code.query, .claim, .cancel, .taken, .release, .put, .exposed, .toolStatus, .setFlags, .fetchNotice,
      .clearSummary, .setAttention])
  | .sup =>
    !decide (c ∈ [Code.claim, .cancel, .taken, .release, .put, .exposed, .toolStatus, .take, .picked, .placed, .read,
      .progress, .fault, .result])
  | .hdl =>
    decide (c ∈ [Code.take, .picked, .placed, .read, .progress, .fault, .fetchNotice, .clearSummary, .setAttention])
  | .ins => decide (c ∈ [Code.result, .fetchNotice, .clearSummary, .setAttention])

namespace State

def io (s : State) (p : Port) : PortIo := s.links.ports.get p

def onIo (s : State) (p : Port) (f : PortIo → PortIo) : State :=
  { s with links := { s.links with ports := s.links.ports.modify p f } }

/-- R181: the effect is applied to the port's flags with a test and a count. -/
def applyEffect (s : State) (p : Port) (m : Byte) (test : Bool) (count : Nat) : State :=
  s.onIo p (fun io => { io with flagP := effectP m io.flagP test, flagN := effectN m io.flagN count })

/-- R179, R180: the response, with the flags and the port summary as they now stand; the port is answering. -/
def respond (s : State) (p : Port) (code : Byte) (o : Outcome) (test : Bool) (count : Nat) (payload : Payload) :
    State :=
  s.onIo p (fun io =>
    { io with
      answering := some
        { code := code, outcome := o, flagP := io.flagP, flagN := io.flagN, test := test,
          summary := (s.acct.notices.get p).summary, count := count, payload := payload } })

/-- R180: a refusal of steps 3, 4, 6 or 7: the effect is applied with test false and count 0. -/
def refuse (s : State) (p : Port) (m : Byte) (code : Byte) (o : Outcome) : State :=
  (s.applyEffect p m false 0).respond p code o false 0 .nothing

/-- R180: the answer to what the request's own rule decided. -/
def answer (p : Port) (m : Byte) (code : Byte) : Judged → State
  | .refused o s => s.refuse p m code o
  | .done s r quiet =>
    (if quiet then s else s.applyEffect p m r.test r.count).respond p code .done r.test r.count r.payload

/-- R180, steps 1 to 5 and then the rest, for a catalogued request; without power or with RESET low nothing
is taken. -/
def takeRequest (s : State) (p : Port) (m : Byte) (c : Code) (judge : State → Judged) : State :=
  match s.power with
  | .off => s
  | .resetLow => s
  | .reloading => s.respond p c.byte .starting false 0 .nothing
  | .running =>
    if !modifierOk p m then s.respond p c.byte .malformed false 0 .nothing
    else if !permitted c p then s.refuse p m c.byte .notPermitted
    else if !guardTrue m (s.io p).flagP (s.io p).flagN then s.respond p c.byte .skipped false 0 .nothing
    else answer p m c.byte (judge s)

/-- R180, steps 1 to 3, for a code that is not in the catalogue. -/
def takeUnlisted (s : State) (p : Port) (m : Byte) (code : Byte) : State :=
  match s.power with
  | .off => s
  | .resetLow => s
  | .reloading => s.respond p code .starting false 0 .nothing
  | .running =>
    if !modifierOk p m then s.respond p code .malformed false 0 .nothing
    else s.refuse p m code .malformed

end State

/-! ### What many requests share -/

/-- A judgement that refuses and changes nothing. -/
def refusal (o : Outcome) (s : State) : Judged := .refused o s

/-- A judgement DONE over an event's work, the reply computed from the state the event leaves. -/
def finish (s : State) (w : Work) (reply : State → Reply) : Judged :=
  let s' := s.commit w
  .done s' (reply s') false

/-- A judgement DONE that changes nothing. -/
def unchanged (s : State) (r : Reply) : Judged := .done s r false

/-- R2: a request that names a reticle by identity: form, then the index. -/
def withIdent (id : Ident) (s : State) (act : Nat → Record → Judged) : Judged :=
  if identOk id then
    match s.acct.findIdent id with
    | some (r, rec) => act r rec
    | none => refusal .unknownId s
  else refusal .malformed s

/-- The tool port's scanner. -/
def scannerAt : Port → Option Scanner
  | .tool k => some k
  | _ => none

/-- A request of a tool port acts for the scanner of that port. -/
def withScanner (p : Port) (s : State) (act : Scanner → Judged) : Judged :=
  match scannerAt p with
  | some k => act k
  | none => refusal .notPermitted s

/-- R23: the record summary. -/
def summaryOf (a : Account) (r : Nat) (rec : Record) : RecordSummary where
  number := r
  ident := rec.ident
  classCode := rec.classCode
  custody := rec.custody
  place := rec.place
  lastKnown := rec.lastKnown
  holder := rec.holder
  home := rec.home
  expCount := rec.expCount
  expLimit := a.effExp rec
  expDefault := rec.expLimit.isNone
  age := rec.age
  ageLimit := a.effAge rec
  ageDefault := rec.ageLimit.isNone
  due := rec.due
  held := rec.held
  rejected := rec.rejected
  retirePending := rec.retirePending
  returnRequested := rec.returnRequested
  lastInspection := rec.lastInspection
  queueDepth := rec.claimQueue.length
  retention := rec.retention

/-- The queue depth of a record number (R30). -/
def depthOf (a : Account) (r : Nat) : Nat := ((a.record r).map (·.claimQueue.length)).getD 0

/-- The custody state of a record number. -/
def custodyOf (a : Account) (r : Nat) : Option Custody := (a.record r).map (·.custody)

/-- The records in use (R1). -/
def recordsInUse (a : Account) : Nat := a.records.length

/-- The number of records in a custody state. -/
def countCustody (a : Account) (c : Custody) : Nat := a.records.countP (fun p => decide (p.2.custody = c))

end Sys2Proof.Machine
end

