-- ==== Sys2Proof/Machine/RecordRequests.lean ====
section
/-! DEFINITION. The supervisor's requests on records: REGISTER, RETIRE, HOLD, UNHOLD, REWRITE, AMEND, READ_RECORD
and FIND (chapter 1). -/

namespace Sys2Proof.Machine

/-! ### Ranges (R4) -/

/-- R4: a class code in range. -/
def classOk (c : Nat) : Bool := decide (c < 65536)

/-- R4: a slot in range. -/
def slotOk (n : Nat) : Bool := decide (n < Config.slotCount)

/-- R4: a home slot or none. -/
def homeOk (h : Option Nat) : Bool := h.all slotOk

/-! ### REGISTER (R13, R14) -/

/-- R14: the record a REGISTER creates. -/
def newRecord (id : Ident) (classCode : Nat) (expLimit ageLimit home : Option Nat) : Record where
  ident := id
  classCode := classCode
  custody := .inbound
  place := some .intakePort
  lastKnown := none
  holder := none
  home := home
  expCount := 0
  expLimit := expLimit
  age := 0
  ageLimit := ageLimit
  due := false
  held := .none
  rejected := false
  retirePending := false
  returnRequested := false
  lastInspection := none
  claimQueue := []
  retention := .clean

/-- R14: an accepted REGISTER. -/
def acceptRegister (w : Work) (r : Nat) (rec : Record) : Work :=
  let w := w.onAcct (fun a => { a with records := Table.put a.records r rec })
  let w := w.onSm (fun sm => { sm with intake := .occupied r })
  (w.addMove .intake (some r) .intakePort .choose .normal none).recordPage r

/-- R14: the record numbers still free. -/
def freeRecords (a : Account) : Nat := Config.recordCount - recordsInUse a

/-- R13. -/
def reqRegister (id : Ident) (classCode : Nat) (expLimit ageLimit home : Option Nat) (s : State) : Judged :=
  if !(identOk id && classOk classCode && limitOptOk expLimit && limitOptOk ageLimit && homeOk home) then
    refusal .malformed s
  else if (s.acct.findIdent id).isSome then refusal .duplicate s
  else if !s.acct.sm.gateOpen then refusal .gateClosed s
  else if s.acct.sm.intake ≠ .empty then refusal .wrongState s
  else
    match Table.lowestFree s.acct.records Config.recordCount with
    | none => refusal .noRoom s
    | some r =>
      if s.acct.freeEntries = 0 then refusal .noRoom s
      else
        finish s (acceptRegister (.start s.acct) r (newRecord id classCode expLimit ageLimit home))
          (fun t => { test := true, count := freeRecords t.acct })

/-- REGISTER (R13, R14). -/
def execRegister (p : Port) (m : Byte) (id : Ident) (classCode : Nat) (expLimit ageLimit home : Option Nat)
    (s : State) : Host.Outcome State Fault Refusal :=
  .next (s.takeRequest p m .register (reqRegister id classCode expLimit ageLimit home))

/-! ### RETIRE (R15, R16) -/

/-- R15: a STORED record becomes OUTBOUND and its RETIRE move is queued. -/
def retireNow (w : Work) (r : Nat) (rec : Record) : Work :=
  let w := w.endQueued r .retired
  let w := ((w.onRecord r (fun x => { x with custody := .outbound })).recordPage r).unlist r
  match rec.place with
  | some place => w.addMove .retire (some r) place (.at .outtakePort) .normal none
  | none => w

/-- R16: retire pending is set; a record on the routing list is no longer routable. -/
def retireLater (w : Work) (r : Nat) : Work :=
  (((w.endQueued r .retired).onRecord r (fun x => { x with retirePending := true })).recordPage r).unlist r

/-- R15, R16: the test and count of a RETIRE that acts. -/
def retireReply (rec : Record) (outbound : Bool) (_ : State) : Reply :=
  { test := outbound, count := rec.claimQueue.length }

/-- R15: RETIRE of a STORED record. The RETIRE move takes the entry of a move withdrawn for it, which is therefore
offered to no other owner; a TO_STATION withdrawn lowers the station lead (R133). -/
def retireStored (r : Nat) (rec : Record) (s : State) : Judged :=
  let w := Work.start s.acct
  match s.acct.moveOf r with
  | none =>
    if s.acct.freeEntries = 0 then refusal .noRoom s else finish s (retireNow w r rec) (retireReply rec true)
  | some m =>
    if m.state = .queued ∨ m.state = .staged then finish s (retireNow (w.dropMove m).offerRoom r rec) (retireReply rec true)
    else finish s (retireLater w r) (retireReply rec false)

/-- R15, R16. -/
def reqRetire (id : Ident) (s : State) : Judged :=
  withIdent id s fun r rec =>
    if rec.custody = .outbound ∨ rec.retirePending = true then
      unchanged s { test := decide (rec.custody = .outbound), count := 0 }
    else if rec.custody = .stored then retireStored r rec s
    else finish s (retireLater (.start s.acct) r) (retireReply rec false)

/-- RETIRE (R15, R16). -/
def execRetire (p : Port) (m : Byte) (id : Ident) (s : State) : Host.Outcome State Fault Refusal :=
  .next (s.takeRequest p m .retire (reqRetire id))

/-! ### HOLD and UNHOLD (R18 to R20) -/

/-- R18, R19: held changes; a record that becomes HELD stops being routable (R133). -/
def setHeld (w : Work) (r : Nat) (rec : Record) (h : Held) : Work :=
  if rec.held = h then w
  else
    let w := (w.onRecord r (fun x => { x with held := h })).recordPage r
    if h = .held then w.unlist r else w

/-- R18. -/
def reqHoldTry (id : Ident) (s : State) : Judged :=
  withIdent id s fun r rec =>
    if rec.custody = .stored then
      finish s (setHeld (.start s.acct) r rec .held) (fun _ => { test := true, count := rec.claimQueue.length })
    else unchanged s { test := false, count := rec.claimQueue.length }

/-- HOLD in mode TRY (R18). -/
def execHoldTry (p : Port) (m : Byte) (id : Ident) (s : State) : Host.Outcome State Fault Refusal :=
  .next (s.takeRequest p m .hold (reqHoldTry id))

/-- R19: what HOLD WAIT makes of held. -/
def heldByWait (rec : Record) : Held :=
  if rec.custody = .stored ∨ rec.held = .held then .held else .holdPending

/-- R19. -/
def reqHoldWait (id : Ident) (s : State) : Judged :=
  withIdent id s fun r rec =>
    finish s (setHeld (.start s.acct) r rec (heldByWait rec))
      (fun _ => { test := decide (heldByWait rec = .held), count := rec.claimQueue.length })

/-- HOLD in mode WAIT (R19). -/
def execHoldWait (p : Port) (m : Byte) (id : Ident) (s : State) : Host.Outcome State Fault Refusal :=
  .next (s.takeRequest p m .hold (reqHoldWait id))

/-- R20: an UNHOLD that clears HELD from a STORED record hands it on. -/
def handUnheld (w : Work) (r : Nat) (rec : Record) : Work :=
  if rec.held = .held ∧ rec.custody = .stored then
    let w := w.bringHead r
    if rec.due && !rec.rejected then w.hand r false else w
  else w

/-- R20, R179: the queue depth is the one the event leaves, a grant in the same event counted. -/
def reqUnhold (id : Ident) (s : State) : Judged :=
  withIdent id s fun r rec =>
    finish s (handUnheld (setHeld (.start s.acct) r rec .none) r rec)
      (fun t => { test := decide (rec.held ≠ .none), count := depthOf t.acct r })

/-- UNHOLD (R20). -/
def execUnhold (p : Port) (m : Byte) (id : Ident) (s : State) : Host.Outcome State Fault Refusal :=
  .next (s.takeRequest p m .unhold (reqUnhold id))

/-! ### REWRITE and AMEND (R21, R22) -/

/-- R21: the comparison a REWRITE or AMEND makes, with its notices and, for a STORED record, its routing. -/
def compare (w : Work) (r : Nat) : Work :=
  if Work.comparisonSets w.acct r then
    let limit := ((w.acct.record r).map (Work.limitOf w.acct)).getD .age
    let w := ((w.onRecord r (fun x => { x with due := true })).recordPage r).dueNotices r limit true
    if custodyOf w.acct r = some .stored then w.hand r false else w
  else w

/-- R21: the test and count of REWRITE and AMEND. -/
def dueReply (r : Nat) (s : State) : Reply where
  test := !((s.acct.record r).map (·.due)).getD false
  count := ((s.acct.record r).map s.acct.remaining).getD 0

/-- R21: a REWRITE's replacement. -/
def rewritten (classCode : Nat) (expLimit ageLimit home expCount age : Option Nat) (x : Record) : Record :=
  { x with
    classCode := classCode, expLimit := expLimit, ageLimit := ageLimit, home := home
    expCount := expCount.getD 0, age := age.getD 0 }

/-- R21: the values of a REWRITE are in range. -/
def rewriteOk (classCode : Nat) (expLimit ageLimit home expCount age : Option Nat) : Bool :=
  classOk classCode && limitOptOk expLimit && limitOptOk ageLimit && homeOk home
    && expCount.all (fun n => decide (n ≤ Config.countMax)) && age.all (fun n => decide (n ≤ Config.countMax))

/-- R21. -/
def reqRewrite (id : Ident) (classCode : Nat) (expLimit ageLimit home expCount age : Option Nat) (s : State) :
    Judged :=
  if !rewriteOk classCode expLimit ageLimit home expCount age then refusal .malformed s
  else withIdent id s fun r _ =>
    let w := ((Work.start s.acct).onRecord r (rewritten classCode expLimit ageLimit home expCount age)).recordPage r
    finish s (compare w r) (dueReply r)

/-- REWRITE (R21). -/
def execRewrite (p : Port) (m : Byte) (id : Ident) (classCode : Nat)
    (expLimit ageLimit home expCount age : Option Nat) (s : State) : Host.Outcome State Fault Refusal :=
  .next (s.takeRequest p m .rewrite (reqRewrite id classCode expLimit ageLimit home expCount age))

/-- R22: a change of one field in range. -/
def changeOk (ok : Nat → Bool) : FieldChange → Bool
  | .keep => true
  | .assign v => ok v
  | .absent => true

/-- R22: an optional field after its change. -/
def changed (c : FieldChange) (old : Option Nat) : Option Nat :=
  match c with
  | .keep => old
  | .assign v => some v
  | .absent => none

/-- R22: what AMEND makes of a record's attributes. -/
def amended (classCode home expLimit ageLimit : FieldChange) (x : Record) : Record :=
  { x with
    classCode := (changed classCode (some x.classCode)).getD x.classCode
    home := changed home x.home, expLimit := changed expLimit x.expLimit, ageLimit := changed ageLimit x.ageLimit }

/-- R22: an AMEND of the form required. -/
def amendOk (classCode home expLimit ageLimit : FieldChange) (namesCounts : Bool) : Bool :=
  !namesCounts && decide (classCode ≠ .absent) && changeOk classOk classCode && changeOk slotOk home
    && changeOk limitOk expLimit && changeOk limitOk ageLimit

/-- R22: an accepted AMEND that names a field. -/
def acceptAmend (w : Work) (r : Nat) (rec new : Record) : Work :=
  let w := w.onRecord r (fun _ => new)
  compare (if new = rec then w else w.recordPage r) r

/-- R22. -/
def reqAmend (id : Ident) (classCode home expLimit ageLimit : FieldChange) (namesCounts : Bool) (s : State) : Judged :=
  if !amendOk classCode home expLimit ageLimit namesCounts then refusal .malformed s
  else withIdent id s fun r rec =>
    if classCode = .keep ∧ home = .keep ∧ expLimit = .keep ∧ ageLimit = .keep then unchanged s (dueReply r s)
    else
      finish s (acceptAmend (.start s.acct) r rec (amended classCode home expLimit ageLimit rec)) (dueReply r)

/-- AMEND (R22). -/
def execAmend (p : Port) (m : Byte) (id : Ident) (classCode home expLimit ageLimit : FieldChange)
    (namesCounts : Bool) (s : State) : Host.Outcome State Fault Refusal :=
  .next (s.takeRequest p m .amend (reqAmend id classCode home expLimit ageLimit namesCounts))

/-! ### READ_RECORD (R23) and FIND (R24) -/

/-- R23: the answer of READ_RECORD. -/
def readReply (a : Account) (r : Nat) (rec : Record) : Reply where
  test := decide (rec.custody ≠ .unverified)
  count := rec.claimQueue.length
  payload := .summary (summaryOf a r rec)

/-- R23. -/
def reqReadRecord (which : RecordRef) (s : State) : Judged :=
  match which with
  | .byIdent id => withIdent id s fun r rec => unchanged s (readReply s.acct r rec)
  | .byNumber n =>
    if Config.recordCount ≤ n then refusal .malformed s
    else
      match s.acct.record n with
      | some rec => unchanged s (readReply s.acct n rec)
      | none => refusal .unknownId s

/-- READ_RECORD (R23). -/
def execReadRecord (p : Port) (m : Byte) (which : RecordRef) (s : State) : Host.Outcome State Fault Refusal :=
  .next (s.takeRequest p m .readRecord (reqReadRecord which))

/-- R186: FIND's filter value for ANY. -/
def anyState : Nat := 255

/-- R24: a record number in use that FIND matches. -/
def findMatch (start stateFilter : Nat) (classFilter : Option Nat) (q : Nat × Record) : Bool :=
  decide (start ≤ q.1) && (decide (stateFilter = anyState) || decide (custodyCode q.2.custody = stateFilter))
    && classFilter.all (fun c => decide (q.2.classCode = c))

/-- R24: the matches FIND lists. -/
def findHits (a : Account) (start stateFilter : Nat) (classFilter : Option Nat) : List (Nat × Record) :=
  (a.records.filter (findMatch start stateFilter classFilter)).take Config.findMatches

/-- R24: the resume number. -/
def findResume (hits : List (Nat × Record)) : Option Nat :=
  match hits.getLast? with
  | some q =>
    if hits.length = Config.findMatches ∧ q.1 + 1 < Config.recordCount then some (q.1 + 1) else none
  | none => none

/-- R24. -/
def reqFind (start stateFilter : Nat) (classFilter : Option Nat) (s : State) : Judged :=
  if Config.recordCount ≤ start ∨ (9 < stateFilter ∧ stateFilter ≠ anyState) ∨ classFilter.all classOk = false then
    refusal .malformed s
  else
    let hits := findHits s.acct start stateFilter classFilter
    unchanged s
      { test := (findResume hits).isNone
        count := hits.length
        payload := .found (hits.map (fun q => (q.2.ident, q.1))) (findResume hits) }

/-- FIND (R24). -/
def execFind (p : Port) (m : Byte) (start stateFilter : Nat) (classFilter : Option Nat) (s : State) :
    Host.Outcome State Fault Refusal :=
  .next (s.takeRequest p m .find (reqFind start stateFilter classFilter))

end Sys2Proof.Machine
end

