-- ==== Sys2Proof/Machine/ClaimSlotRequests.lean ====
section
/-! DEFINITION. The supervisor's requests on claims, inspection and slots: PROMOTE, INSPECT, RELOCATE, AUDIT,
CLOSE_RANGE, OPEN_RANGE and OUTTAKE_CLEARED (chapters 2, 5 and 6). -/

namespace Sys2Proof.Machine

/-! ### PROMOTE (R51, R52, R141) -/

/-- R51: a claim's reference takes the place its HOT standing gives: after every HOT claim of earlier
acceptance. -/
def promoteIn (a : Account) (c order : Nat) (q : List Nat) : List Nat :=
  let ahead (d : Nat) : Bool :=
    match Table.lookup a.claims d with
    | some x => decide (x.priority = .hot) && decide (x.order < order)
    | none => false
  let rest := q.filter (· ≠ c)
  rest.takeWhile ahead ++ c :: rest.dropWhile ahead

/-- R60: a QUEUED NORMAL move is raised: it leaves its place and is inserted after the last HOT move. -/
def raiseMove (w : Work) (number : Nat) : Work :=
  match w.acct.du.queue.find? (fun m => decide (m.number = number)) with
  | some m =>
    if m.priority = .hot then w
    else
      (w.onDu (fun du =>
        { du with
          queue := Work.insertMove (du.queue.filter (fun x => x.number ≠ number)) { m with priority := .hot } })).tryStaging
  | none => w

/-- The QUEUED move of some kinds that names a record. -/
def queuedMoveOf (a : Account) (r : Nat) (kinds : List MoveKind) : Option Move :=
  a.du.queue.find? (fun m => decide (m.subject = some r) && kinds.contains m.kind)

/-- R51, R52, R141: the QUEUED move of a member is raised. -/
def raiseMember (kinds : List MoveKind) (w : Work) (r : Nat) : Work :=
  match queuedMoveOf w.acct r kinds with
  | some m => raiseMove w m.number
  | none => w

/-- R51: one member queue of a promoted WAITING claim; a new head comes up for a grant check. -/
def promoteQueue (c order : Nat) (w : Work) (r : Nat) : Work :=
  let before := (w.acct.record r).bind (·.claimQueue.head?)
  let w := w.onRecord r (fun x => { x with claimQueue := promoteIn w.acct c order x.claimQueue })
  if before = some c then w else
    if (w.acct.record r).bind (·.claimQueue.head?) = some c then w.bringUp c else w

/-- R51, R52: an accepted PROMOTE of a NORMAL claim. The QUEUED station moves of a WAITING claim's members are raised
in member order: R60 gives that order for FETCH moves only, and R52 gives none (DESIGN CHOICE, log 37). -/
def acceptPromote (w : Work) (c : Nat) (claim : Claim) : Work :=
  let w := w.onClaim c (fun x => { x with priority := .hot })
  let members := claim.members.filterMap (·.record)
  match claim.state with
  | .waiting =>
    let w := members.foldl (promoteQueue c claim.order) w
    members.foldl (raiseMember [.toStation, .fromStation]) w
  | .granted => (Work.untakenMembers claim).foldl (raiseMember [.fetch]) w

/-- R51: the entries standing ahead of a claim, summed over its members. -/
def standingAhead (a : Account) (c : Nat) (claim : Claim) : Nat :=
  ((claim.members.filterMap (·.record)).map (fun r =>
    ((((a.record r).map (·.claimQueue)).getD []).takeWhile (· ≠ c)).length)).sum

/-- R51: the test and count of PROMOTE. -/
def promoteReply (c : Nat) (s : State) : Reply :=
  match Table.lookup s.acct.claims c with
  | some x =>
    match x.state with
    | .granted => { test := true, count := 0 }
    | .waiting => { test := decide (standingAhead s.acct c x = 0), count := standingAhead s.acct c x }
  | none => { test := false, count := 0 }

/-- R51. -/
def reqPromote (tool tag : Nat) (s : State) : Judged :=
  match scannerOf tool with
  | none => refusal .malformed s
  | some k =>
    if Config.tagMax < tag then refusal .malformed s
    else
      match s.acct.findClaim k tag with
      | none => refusal .unknownId s
      | some (c, claim) =>
        if claim.priority = .hot then unchanged s (promoteReply c s)
        else finish s (acceptPromote (.start s.acct) c claim) (promoteReply c)

/-- PROMOTE (R51). -/
def execPromote (p : Port) (m : Byte) (tool tag : Nat) (s : State) : Host.Outcome State Fault Refusal :=
  .next (s.takeRequest p m .promote (reqPromote tool tag))

/-! ### INSPECT (R134) -/

/-- R134: a TO_STATION move for the record is in the dispatch. -/
def toStationNamed (a : Account) (r : Nat) : Bool :=
  (a.moveOf r).any (fun m => decide (m.kind = .toStation))

/-- R134: the record is AT_STATION, or its TO_STATION move is in the dispatch. -/
def stationBound (a : Account) (r : Nat) : Bool := decide (custodyOf a r = some .atStation) || toStationNamed a r

/-- R134, check 5: the record, due set, would be routed and needs an entry. -/
def inspectNeedsRoom (a : Account) (r : Nat) (rec : Record) : Bool :=
  decide (rec.custody = .stored) && decide (rec.held = .none) && !rec.retirePending && !a.named r
    && decide (a.toStationMoves < Config.stationLead)

/-- R134: an accepted INSPECT. A record AT_STATION or bound for it is left as it stands (log 27). -/
def acceptInspect (w : Work) (r : Nat) (rec : Record) : Work :=
  if stationBound w.acct r then w
  else
    let w := if rec.due then w
      else ((w.onRecord r (fun x => { x with due := true })).recordPage r).dueNotices r .inspect false
    w.hand r true

/-- R134. -/
def reqInspect (id : Ident) (s : State) : Judged :=
  withIdent id s fun r rec =>
    if rec.custody = .unverified then refusal .wrongState s
    else if rec.rejected = true ∧ (rec.custody ≠ .stored ∨ s.acct.named r = true) then refusal .wrongState s
    else if inspectNeedsRoom s.acct r rec = true ∧ s.acct.freeEntries = 0 then refusal .noRoom s
    else
      finish s (acceptInspect (.start s.acct) r rec)
        (fun t => { test := stationBound t.acct r, count := t.acct.toStationMoves })

/-- INSPECT (R134). -/
def execInspect (p : Port) (m : Byte) (id : Ident) (s : State) : Host.Outcome State Fault Refusal :=
  .next (s.takeRequest p m .inspect (reqInspect id))

/-! ### RELOCATE (R118) -/

/-- R118: the destination a RELOCATE queues. -/
def relocateDest : Option Nat → Dest
  | some n => .at (.slot n)
  | none => .choose

/-- R118: the move just queued for a record is eligible for staging. -/
def eligibleNow (a : Account) (r : Nat) : Bool := (a.moveOf r).any (Work.eligible a)

/-- R118. -/
def reqRelocate (id : Ident) (dest : Option Nat) (s : State) : Judged :=
  if !homeOk dest then refusal .malformed s
  else withIdent id s fun r rec =>
    match rec.custody, rec.place with
    | .stored, some (.slot own) =>
      if s.acct.named r then refusal .wrongState s
      else if dest = some own then refusal .wrongState s
      else if s.acct.freeEntries = 0 then refusal .noRoom s
      else
        let w := (Work.start s.acct).addMove .relocate (some r) (.slot own) (relocateDest dest) .normal none
        finish s w (fun _ => { test := eligibleNow w.acct r, count := s.acct.du.queue.length })
    | _, _ => refusal .wrongState s

/-- RELOCATE (R118). -/
def execRelocate (p : Port) (m : Byte) (id : Ident) (dest : Option Nat) (s : State) :
    Host.Outcome State Fault Refusal :=
  .next (s.takeRequest p m .relocate (reqRelocate id dest))

/-! ### AUDIT (R119) -/

/-- R36, R59 group 4: a claim held for room names the record; the Claim Arbiter waits to queue its FETCH. -/
def heldClaimNames (a : Account) (r : Nat) : Bool :=
  a.claims.any (fun p => p.2.heldForRoom && p.2.members.any (fun m => decide (m.record = some r)))

/-- R119: an owner waits to queue a move for the record (R59, R133). -/
def awaited (a : Account) (r : Nat) : Bool :=
  a.du.waitFetch.contains r || a.du.waitCustody.contains r || a.qu.routing.contains r || heldClaimNames a r

/-- R119: the slot is passed over. -/
def passedOver (a : Account) (n : Nat) : Bool :=
  a.underVerify n ||
    match a.slot n with
    | .expected _ => true
    | .occupied r => a.named r || awaited a r
    | _ => false

/-- R119: one more examined slot in its state. -/
def SlotCounts.add (c : SlotCounts) : SlotState → SlotCounts
  | .empty => { c with empty := c.empty + 1 }
  | .occupied _ => { c with occupied := c.occupied + 1 }
  | .expected _ => { c with expected := c.expected + 1 }
  | .unknown => { c with unknown := c.unknown + 1 }
  | .foreign => { c with foreign := c.foreign + 1 }

/-- R119: how far an examination has come. -/
structure AuditScan where
  work : Work
  passed : Nat
  queued : Nat
  counts : SlotCounts
  resume : Option Nat

/-- R119: one slot of the range; nothing more is examined once a slot found no free entry. -/
def auditSlot (t : AuditScan) (n : Nat) : AuditScan :=
  if t.resume.isSome then t
  else
    let st := t.work.acct.slot n
    if passedOver t.work.acct n then { t with passed := t.passed + 1, counts := t.counts.add st }
    else if t.work.acct.freeEntries = 0 then { t with resume := some n }
    else
      { t with
        work := t.work.addMove .verify (Work.occupant st) (.slot n) .absent .normal none
        queued := t.queued + 1, counts := t.counts.add st }

/-- R119: the examination of a range, slots ascending. -/
def auditRange (a : Account) (first count : Nat) : AuditScan :=
  (List.range' first count).foldl auditSlot
    { work := .start a, passed := 0, queued := 0,
      counts := { empty := 0, occupied := 0, expected := 0, unknown := 0, foreign := 0 }, resume := none }

/-- R111, R119: a run of slots in range. -/
def runOk (first count : Nat) : Bool :=
  decide (first < Config.slotCount) && decide (1 ≤ count) && decide (first + count ≤ Config.slotCount)

/-- R119. -/
def reqAudit (first count : Nat) (s : State) : Judged :=
  if !runOk first count then refusal .malformed s
  else
    let t := auditRange s.acct first count
    finish s t.work
      (fun _ =>
        { test := t.resume.isNone, count := t.queued, payload := .audit t.resume t.passed t.counts })

/-- AUDIT (R119). -/
def execAudit (p : Port) (m : Byte) (first count : Nat) (s : State) : Host.Outcome State Fault Refusal :=
  .next (s.takeRequest p m .audit (reqAudit first count))

/-! ### CLOSE_RANGE, OPEN_RANGE and OUTTAKE_CLEARED (R112, R115) -/

/-- R112: a range is rewritten: the settings page is queued, the gate judged, and staging tried if any slot
became open. -/
def writeRange (w : Work) (i : Fin 4) (g : ClosedRange) : Work :=
  let before := w.acct
  let w := ((w.onSettings (fun t => { t with ranges := t.ranges.set i g })).page .header).judgeGate
  if (List.range Config.slotCount).any (fun n => before.closed n && !w.acct.closed n) then w.tryStaging else w

/-- R112, R116, R117: test the gate after the request, count the EMPTY open slots after it. -/
def gateReply (s : State) : Reply := { test := s.acct.sm.gateOpen, count := s.acct.freeSlots }

/-- R112. The complement is sent as a choice, yes 0 and no 1 (log 13). -/
def reqCloseRange (range first count complement : Nat) (s : State) : Judged :=
  if h : range < 4 then
    match yesNo complement with
    | none => refusal .malformed s
    | some outside =>
      if !runOk first count then refusal .malformed s
      else
        finish s
          (writeRange (.start s.acct) ⟨range, h⟩
            { first := first, count := count, complement := outside, inForce := true })
          gateReply
  else refusal .malformed s

/-- CLOSE_RANGE (R112). -/
def execCloseRange (p : Port) (m : Byte) (range first count complement : Nat) (s : State) :
    Host.Outcome State Fault Refusal :=
  .next (s.takeRequest p m .closeRange (reqCloseRange range first count complement))

/-- R112. -/
def reqOpenRange (range : Nat) (s : State) : Judged :=
  if h : range < 4 then
    let g := s.acct.settings.ranges[range]
    if g.inForce then finish s (writeRange (.start s.acct) ⟨range, h⟩ { g with inForce := false }) gateReply
    else unchanged s (gateReply s)
  else refusal .malformed s

/-- OPEN_RANGE (R112). -/
def execOpenRange (p : Port) (m : Byte) (range : Nat) (s : State) : Host.Outcome State Fault Refusal :=
  .next (s.takeRequest p m .openRange (reqOpenRange range))

/-- R115. -/
def reqOuttakeCleared (s : State) : Judged :=
  if s.acct.sm.outtakeOccupied then
    finish s (((Work.start s.acct).onSm (fun sm => { sm with outtakeOccupied := false })).tryStaging)
      (fun _ => { test := true, count := countCustody s.acct .outbound })
  else unchanged s { test := false, count := countCustody s.acct .outbound }

/-- OUTTAKE_CLEARED (R115). -/
def execOuttakeCleared (p : Port) (m : Byte) (s : State) : Host.Outcome State Fault Refusal :=
  .next (s.takeRequest p m .outtakeCleared reqOuttakeCleared)

end Sys2Proof.Machine
end

