-- ==== Sys2Proof/Machine/SettingsRequests.lean ====
section
/-! DEFINITION. The supervisor's requests on settings: SET_TOOL, SET_TIMERS, SET_DEFAULTS, SET_RESERVE, SET_SWEEP,
START_SWEEP and STOP_SWEEP (chapters 4, 5, 6 and section 9.6). -/

namespace Sys2Proof.Machine

/-! ### SET_TOOL (R103, R45) -/

/-- The tool settings a SET_TOOL asks for. -/
def toolSettings (old : ToolSettings) (enabled capacity : Option Nat) : ToolSettings where
  enabled := (enabled.bind yesNo).getD old.enabled
  capacity := capacity.getD old.capacity

/-- R103: scanner k is disabled. -/
def disableScanner (w : Work) (k : Scanner) : Work :=
  ((w.endScanner k .disabled false).onXu k (fun x => { x with lapse := false })).tryOpen k

/-- R37, R54: every WAITING claim of scanner k comes up for a grant check. -/
def bringUpScanner (w : Work) (k : Scanner) : Work :=
  (w.acct.claims.filter (fun q => decide (q.2.tool = k) && decide (q.2.state = .waiting))).foldl
    (fun w q => w.bringUp q.1) w

/-- R103: an accepted SET_TOOL. Enabled no given to a scanner already disabled is no disabling event: a set access
lapse stays (DESIGN CHOICE, log 38). -/
def acceptSetTool (w : Work) (k : Scanner) (old new : ToolSettings) : Work :=
  if new = old then w
  else
    let w := (w.onSettings (fun t => { t with tools := t.tools.set k new })).page .header
    if old.enabled && !new.enabled then disableScanner w k
    else if !old.enabled && new.enabled then bringUpScanner w.tryStaging k
    else w

/-- R103. Enabled is sent as a choice, yes 0 and no 1 (log 13). -/
def reqSetTool (tool : Nat) (enabled capacity : Option Nat) (s : State) : Judged :=
  match scannerOf tool with
  | none => refusal .malformed s
  | some k =>
    if enabled.all (fun n => (yesNo n).isSome) && capacity.all (fun n => decide (1 ≤ n) && decide (n ≤ 12)) then
      let old := s.acct.settings.tools[k]
      finish s (acceptSetTool (.start s.acct) k old (toolSettings old enabled capacity))
        (fun t => { test := t.acct.enabled k, count := t.acct.libraryLoad k })
    else refusal .malformed s

/-- SET_TOOL (R103). -/
def execSetTool (p : Port) (m : Byte) (tool : Nat) (enabled capacity : Option Nat) (s : State) :
    Host.Outcome State Fault Refusal :=
  .next (s.takeRequest p m .setTool (reqSetTool tool enabled capacity))

/-! ### SET_TIMERS (R184, R77, R102, R136, R154) -/

/-- A value within a range, or none. -/
def inRange (lo hi : Nat) (v : Option Nat) : Bool := v.all (fun n => decide (lo ≤ n) && decide (n ≤ hi))

/-- The ranges of the five limits. -/
def timersOk (take hold watchdog grace station : Option Nat) : Bool :=
  inRange 10 3600 take && inRange 5 600 hold && inRange 5 600 watchdog && inRange 10 3600 grace
    && inRange 60 7200 station

/-- 1 where a limit given differs from the one it replaces. -/
def limitChange (old : Nat) (v : Option Nat) : Nat :=
  match v with
  | some n => if n = old then 0 else 1
  | none => 0

/-- R184: the settings after a SET_TIMERS. -/
def withTimers (take hold watchdog grace station : Option Nat) (t : Settings) : Settings :=
  { t with
    takeLimit := take.getD t.takeLimit, holdLimit := hold.getD t.holdLimit
    watchdogLimit := watchdog.getD t.watchdogLimit, graceLimit := grace.getD t.graceLimit
    stationLimit := station.getD t.stationLimit }

/-- R184. -/
def reqSetTimers (take hold watchdog grace station : Option Nat) (s : State) : Judged :=
  if !timersOk take hold watchdog grace station then refusal .malformed s
  else if take.isNone && hold.isNone && watchdog.isNone && grace.isNone && station.isNone then
    unchanged s { test := false, count := 0 }
  else
    let t := s.acct.settings
    finish s (((Work.start s.acct).onSettings (withTimers take hold watchdog grace station)).page .header)
      (fun _ =>
        { test := true
          count := limitChange t.takeLimit take + limitChange t.holdLimit hold
            + limitChange t.watchdogLimit watchdog + limitChange t.graceLimit grace
            + limitChange t.stationLimit station })

/-- SET_TIMERS (R184). -/
def execSetTimers (p : Port) (m : Byte) (take hold watchdog grace station : Option Nat) (s : State) :
    Host.Outcome State Fault Refusal :=
  .next (s.takeRequest p m .setTimers (reqSetTimers take hold watchdog grace station))

/-! ### SET_DEFAULTS (R126) -/

/-- R126: the records that follow a default. -/
def followers (a : Account) : Nat := a.records.countP (fun q => q.2.expLimit.isNone || q.2.ageLimit.isNone)

/-- R126. -/
def reqSetDefaults (expLimit ageLimit : Option Nat) (s : State) : Judged :=
  if !(limitOptOk expLimit && limitOptOk ageLimit) then refusal .malformed s
  else if expLimit.isNone && ageLimit.isNone then unchanged s { test := false, count := followers s.acct }
  else
    finish s
      (((Work.start s.acct).onSettings (fun t =>
        { t with
          defaultExpLimit := expLimit.getD t.defaultExpLimit
          defaultAgeLimit := ageLimit.getD t.defaultAgeLimit })).page .header)
      (fun _ => { test := true, count := followers s.acct })

/-- SET_DEFAULTS (R126). -/
def execSetDefaults (p : Port) (m : Byte) (expLimit ageLimit : Option Nat) (s : State) :
    Host.Outcome State Fault Refusal :=
  .next (s.takeRequest p m .setDefaults (reqSetDefaults expLimit ageLimit))

/-! ### SET_RESERVE (R117) -/

/-- R117. -/
def reqSetReserve (reserve : Nat) (s : State) : Judged :=
  if Config.reserveMax < reserve then refusal .malformed s
  else
    let w := Work.start s.acct
    let w := if s.acct.settings.reserve = reserve then w
      else (w.onSettings (fun t => { t with reserve := reserve })).page .header
    finish s w.judgeGate gateReply

/-- SET_RESERVE (R117). -/
def execSetReserve (p : Port) (m : Byte) (reserve : Nat) (s : State) : Host.Outcome State Fault Refusal :=
  .next (s.takeRequest p m .setReserve (reqSetReserve reserve))

/-! ### SET_SWEEP, START_SWEEP and STOP_SWEEP (R127, R129) -/

/-- R127: the modes, in that rule's order. -/
def sweepModeOf : Nat → Option SweepMode
  | 0 => some .oneShot
  | 1 => some .periodic
  | _ => none

/-- R129: the settings after a SET_SWEEP. -/
def withSweep (period mode : Option Nat) (t : Settings) : Settings :=
  { t with sweepPeriod := period.getD t.sweepPeriod, sweepMode := (mode.bind sweepModeOf).getD t.sweepMode }

/-- A change of the settings queues the settings page for write-back. -/
def changeSettings (w : Work) (f : Settings → Settings) : Work :=
  if f w.acct.settings = w.acct.settings then w else (w.onSettings f).page .header

/-- R129. -/
def reqSetSweep (period mode : Option Nat) (s : State) : Judged :=
  if !(inRange 1 65535 period && mode.all (fun n => (sweepModeOf n).isSome)) then refusal .malformed s
  else
    finish s (changeSettings (.start s.acct) (withSweep period mode))
      (fun t => { test := t.acct.settings.sweepRunning, count := t.acct.settings.sweepPeriod })

/-- SET_SWEEP (R129). -/
def execSetSweep (p : Port) (m : Byte) (period mode : Option Nat) (s : State) : Host.Outcome State Fault Refusal :=
  .next (s.takeRequest p m .setSweep (reqSetSweep period mode))

/-- R127: a load of the sweep timer. -/
def loadSweep (w : Work) : Work :=
  w.onAcct (fun a => { a with qu := { a.qu with sweepLoaded := some a.settings.sweepPeriod, sweepCounted := 0 } })

/-- R127, R128: the sweep timer stops. -/
def stopTimer (w : Work) : Work :=
  (changeSettings w (fun t => { t with sweepRunning := false })).onQu
    (fun q => { q with sweepLoaded := none, sweepCounted := 0 })

/-- R129. -/
def reqStartSweep (s : State) : Judged :=
  finish s (loadSweep (changeSettings (.start s.acct) (fun t => { t with sweepRunning := true })))
    (fun t => { test := true, count := t.acct.qu.sweepLoaded.getD 0 })

/-- START_SWEEP (R129). -/
def execStartSweep (p : Port) (m : Byte) (s : State) : Host.Outcome State Fault Refusal :=
  .next (s.takeRequest p m .startSweep reqStartSweep)

/-- R129. -/
def reqStopSweep (s : State) : Judged :=
  if s.acct.settings.sweepRunning then
    finish s (stopTimer (.start s.acct)) (fun _ => { test := true, count := s.acct.qu.sweepCounted / 60 })
  else unchanged s { test := false, count := 0 }

/-- STOP_SWEEP (R129). -/
def execStopSweep (p : Port) (m : Byte) (s : State) : Host.Outcome State Fault Refusal :=
  .next (s.takeRequest p m .stopSweep reqStopSweep)

end Sys2Proof.Machine
end

