-- ==== Sys2Proof/Machine/DispatchRequests.lean ====
section
/-! DEFINITION. The supervisor's requests on the dispatch and the Retention Store: PAUSE, RESUME, CLEAR, SYNC,
FORMAT and IDENTIFY (chapters 3, 7, 8 and section 9.6). -/

namespace Sys2Proof.Machine

/-! ### PAUSE and RESUME (R78, R79) -/

/-- The dispatch state changes. -/
def setDispatch (w : Work) (d : DispatchState) : Work := w.onDu (fun du => { du with state := d })

/-- R78, R79: the number of QUEUED moves. -/
def queuedMoves (s : State) : Nat := s.acct.du.queue.length

/-- R78. -/
def reqPause (s : State) : Judged :=
  if s.acct.du.state = .running then
    finish s (setDispatch (.start s.acct) .paused).withdrawToQueue (fun t => { test := true, count := queuedMoves t })
  else unchanged s { test := false, count := queuedMoves s }

/-- PAUSE (R78). -/
def execPause (p : Port) (m : Byte) (s : State) : Host.Outcome State Fault Refusal :=
  .next (s.takeRequest p m .pause reqPause)

/-- R79. -/
def reqResume (s : State) : Judged :=
  if s.acct.du.state = .running then unchanged s { test := false, count := queuedMoves s }
  else
    finish s (setDispatch (.start s.acct) .running).tryStaging (fun t => { test := true, count := queuedMoves t })

/-- RESUME (R79). -/
def execResume (p : Port) (m : Byte) (s : State) : Host.Outcome State Fault Refusal :=
  .next (s.takeRequest p m .resume reqResume)

/-! ### CLEAR (R161, R49, R83, R106) -/

/-- R49: the CLAIM_ENDED notices of a clear, in order of acceptance. -/
def noticeCleared (w : Work) : Work :=
  (Work.sortBy (fun a b => decide (a.order < b.order)) w.acct.claims).foldl (fun w q =>
    w.notify (.tool q.2.tool) (.claimEnded q.2.tag .cleared (Work.takenCount q.2))) w

/-- R83: every QUEUED move and the STAGED move leave the dispatch. -/
def withdrawAll (w : Work) : Work :=
  let staged := w.acct.du.staged
  let w := w.onDu (fun du => { du with queue := [], staged := none })
  match staged with
  | some m => (w.releaseMark m).notify .hdl (.withdrawn m.number)
  | none => w

/-- R83: the kinds of move that their owners offer again. -/
def offeredAgain : MoveKind → Bool
  | .intake => true
  | .retire => true
  | .returnPod => true
  | .recover => true
  | .toStation => true
  | .fromStation => true
  | _ => false

/-- R83: a withdrawn move is offered again as a new move, or its record is handed over for due routing. -/
def reoffer (w : Work) (m : Move) : Work :=
  if offeredAgain m.kind then w.addMove m.kind m.subject m.source m.ordered m.priority none
  else
    match m.kind, m.subject with
    | .relocate, some r => w.hand r false
    | .verify, some r => w.hand r false
    | _, _ => w

/-- R83: the RECOVER move of a position the clear has recalled, or its wait for room. -/
def offerRecover (w : Work) (k : Scanner) : Work :=
  let w := w.onDu (fun du => { du with waitExchange := du.waitExchange ++ [k] })
  w.giveExchange k

/-- R161: the controller clear. The due records of the claims it ends are handed over for routing before those of the
RELOCATE and VERIFY moves it withdraws (R83, R144; DESIGN CHOICE, log 11). -/
def clearWork (a : Account) : Work :=
  let w := (Work.start a).onAcct (fun a => { a with notices := a.notices.mapAll NoticeState.emptied })
  let withdrawn := a.du.staged.toList ++ a.du.queue
  let w := withdrawAll (noticeCleared w)
  let w := w.endClaims w.acct.claims .cleared true
  let recalled := scanners.filter (fun k =>
    w.acct.du.waitExchange.contains k && !a.du.waitExchange.contains k)
  let w := w.onDu (fun du => { du with waitExchange := du.waitExchange.filter (fun k => a.du.waitExchange.contains k) })
  let w := withdrawn.foldl reoffer w
  let w := recalled.foldl offerRecover w
  let w := scanners.foldl Work.tryOpen w
  ((setDispatch w .running).freeEntry.tryStaging).judgeGate

/-- R181: the condition flags of every port that holds them become 0. -/
def clearFlags (s : State) : State :=
  { s with
    links := { s.links with ports := s.links.ports.mapAll (fun io => { io with flagP := false, flagN := false }) } }

/-- R161. -/
def reqClear (s : State) : Judged :=
  finish (clearFlags s) (clearWork s.acct) (fun _ => { test := true, count := s.acct.claims.length })

/-- CLEAR (R161). -/
def execClear (p : Port) (m : Byte) (s : State) : Host.Outcome State Fault Refusal :=
  .next (s.takeRequest p m .clear reqClear)

/-! ### SYNC (R168) -/

/-- R168. -/
def reqSync (s : State) : Judged :=
  let t := s.onStore (fun st => { st with syncRequest := true })
  .done (if s.store.drained then t.drain else t) { test := s.store.mark, count := s.store.queue.length } false

/-- SYNC (R168). -/
def execSync (p : Port) (m : Byte) (s : State) : Host.Outcome State Fault Refusal :=
  .next (s.takeRequest p m .sync reqSync)

/-! ### FORMAT (R173) -/

/-- R173: the settings take their FORMAT values; a stopped sweep timer is loaded and started. -/
def formatSettings (w : Work) : Work :=
  let running := w.acct.settings.sweepRunning
  let w := w.onSettings (fun _ => Settings.format)
  let w := if running then w else loadSweep w
  w.judgeGate.tryStaging

/-- R173: the queue, the stage buffer, the owed pages and the spare map are cleared, and the pass begins. -/
def beginFormat (s : State) : State :=
  let s := s.onStore (fun st =>
    { st with queue := [], stage := none, owed := [], spareMap := [], format := some .waiting })
  if s.store.inFlight.isSome then s else s.beginStep .firstHeader

/-- R173. -/
def reqFormat (s : State) : Judged :=
  if recordsInUse s.acct ≠ 0 ∨ s.store.format.isSome = true then refusal .wrongState s
  else
    .done (beginFormat (s.commit (formatSettings (.start s.acct)))) { test := true, count := Config.spareCount } false

/-- FORMAT (R173). -/
def execFormat (p : Port) (m : Byte) (s : State) : Host.Outcome State Fault Refusal :=
  .next (s.takeRequest p m .format reqFormat)

/-! ### IDENTIFY (R184) -/

/-- R184. -/
def identificationOf (s : State) : Identification where
  partCode := Config.partCode
  revision := Config.revision
  station := s.links.station
  links := s.acct.up
  dispatch := s.acct.du.state
  programming := s.store.programming s.power
  mark := s.store.mark
  recordsInUse := recordsInUse s.acct

/-- R184. -/
def reqIdentify (s : State) : Judged :=
  unchanged s
    { test := decide (s.acct.du.state = .running), count := recordsInUse s.acct,
      payload := .identification (identificationOf s) }

/-- IDENTIFY (R184). -/
def execIdentify (p : Port) (m : Byte) (s : State) : Host.Outcome State Fault Refusal :=
  .next (s.takeRequest p m .identify reqIdentify)

end Sys2Proof.Machine
end

