-- ==== Sys2Proof/Machine/HandlerReports.lean ====
section
/-! DEFINITION. The requests of the handler: TAKE, PICKED, PLACED, READ, PROGRESS and the three causes of FAULT
(chapters 3, 5 and 7). -/

namespace Sys2Proof.Machine

/-! ### What the reports share (R66) -/

/-- A handler report answered DONE: its rule gives no test and no count, so both are free values (log 28). -/
def finishReport (s : State) (w : Work) (payload : Payload) : Judged :=
  let t := s.commit w
  .done { t with freeIndex := t.freeIndex + 1 }
    { test := Config.unstatedTest t.freeIndex, count := (Config.unstatedCount t.freeIndex).toNat, payload := payload }
    false

/-- R66: a report names the taken move and fits its kind and state; a move number above 63 is of no form (log 23). -/
def withTaken (move : Nat) (s : State) (fits : Move → Bool) (act : Move → Judged) : Judged :=
  if Config.moveNumbers ≤ move then refusal .malformed s
  else
    match s.acct.du.taken with
    | some m => if decide (m.number = move) && fits m then act m else refusal .wrongState s
    | none => refusal .wrongState s

/-- R66, R3: the identity of a report, checked after the move number and fit. -/
def withReported (chars : List Byte) (s : State) (act : Ident → Judged) : Judged :=
  match reportedIdent chars with
  | some id => act id
  | none => refusal .identityInvalid s

/-- R66: the form and the fit of a report that carries a reported identity (R180, step 6: 24 characters). -/
def identForm (chars : List Byte) : Bool := decide (chars.length = 24)

/-- The taken move changes. -/
def setTaken (w : Work) (m : Move) : Work := w.onDu (fun du => { du with taken := some m })

/-- R59, R133: the end of a move gives an owner that waits a chance: a TO_STATION lowers the station lead, and CT
may be waiting to queue a move of the record it named. -/
def endFreesOwner (a : Account) (m : Move) : Bool :=
  decide (m.kind = .toStation) || m.subject.any (fun r => a.du.waitCustody.contains r)

/-- A taken move ends: its number and the taken place free, the watchdog stops, staging is tried, and an owner that
waited for the end is offered its entry. -/
def endMove (w : Work) (m : Move) : Work :=
  let w := (w.onDu (fun du => { du with taken := none, watchdog := none })).tryStaging
  if endFreesOwner w.acct m then w.offerRoom else w

/-! ### TAKE (R67) -/

/-- R67. -/
def reqTake (s : State) : Judged :=
  match s.acct.du.taken, s.acct.du.staged with
  | none, some m =>
    let w := (Work.start s.acct).onDu (fun du => { du with staged := none, taken := some { m with state := .active } })
    finishReport s w.startWatchdog.freeEntry.tryStaging
      (.takenMove m.number m.kind (m.subject.map s.acct.identOf) m.source (Work.destPlace m.dest))
  | _, _ => refusal .wrongState s

/-- TAKE (R67). -/
def execTake (p : Port) (m : Byte) (s : State) : Host.Outcome State Fault Refusal :=
  .next (s.takeRequest p m .take reqTake)

/-! ### PICKED (R68, R69, R148) -/

/-- R7, R9, R68: the record of a pick that read its identity is IN_TRANSIT. -/
def pickedRecord (kind : MoveKind) (x : Record) : Record :=
  { x with
    custody := .inTransit, place := some .handler
    holder := if kind = .returnPod ∨ kind = .recover then none else x.holder
    retirePending := x.retirePending || decide (kind = .retire) }

/-- R69: the source place is handed to its owner as emptied. -/
def emptySource (w : Work) (m : Move) (r : Nat) : Work :=
  match m.source with
  | .slot n => (w.setSlot n .empty).tryStaging
  | .intakePort => (w.onSm (fun sm => { sm with intake := .empty })).tryStaging
  | .exchange k =>
    let w := if m.kind = .returnPod then w.notify (.tool k) (.returned (w.acct.identOf r)) else w
    (w.emptyPosition k).tryStaging
  | .station => (w.onQu (fun q => { q with station := .empty })).tryStaging
  | _ => w

/-- R68: the exchange whose asserted interlock makes a pick wait. -/
def waitsAt (a : Account) (m : Move) : Option Scanner :=
  match m.kind, m.dest with
  | .fetch, .at (.exchange k) => if (a.xu[k]).interlock then some k else none
  | _, _ => none

/-- R68: the FETCH's cause claim has ended. -/
def fetchEnded (m : Move) : Bool := decide (m.kind = .fetch) && (m.cause.bind (·.ended)).isSome

/-- The slot a pick has just emptied. -/
def sourceSlot : Place → Option Nat
  | .slot n => some n
  | _ => none

/-- R68: a pick that read the record's own identity. The record leaves STORED, and with it the routing list (R133). -/
def pickMatch (w : Work) (m : Move) (r : Nat) : Work × Answer :=
  let w := ((w.onRecord r (pickedRecord m.kind)).recordPage r).unlist r
  let waits := waitsAt w.acct m
  let w := emptySource w m r
  if fetchEnded m then
    let w := w.redirect m true (sourceSlot m.source)
    (w, match Work.redirectedTo w.acct with
      | some n => .redirect n
      | none => .wait)
  else
    match waits with
    | some k =>
      let w := (setTaken w { m with state := .holding .interlock }).stopWatchdog
      (w.onXu k (fun x => { x with hold := some { count := 0, limit := w.acct.settings.holdLimit } }), .wait)
    | none => ((setTaken w { m with state := .carrying }).startWatchdog, .proceed)

/-- R148: the source place of a mismatch becomes doubtful. -/
def doubtSource (w : Work) : Place → Work
  | .slot n => w.setSlot n .unknown
  | .intakePort => w.onSm (fun sm => { sm with intake := .unknown })
  | .exchange k => w.doubtPosition k
  | .station => w.onQu (fun q => { q with station := .finished none })
  | _ => w

/-- R148: the record whose identity was read at a mismatch. -/
def readElsewhere (w : Work) (m : Move) (y : Nat) (rec : Record) : Work :=
  if rec.custody = .unverified then
    (((w.onRecord y (fun x => { x with lastKnown := some m.source })).recordPage y).notify .sup
      (.unverified rec.ident y .readElsewhere m.source (some m.source) (some m.number))).recheckIntake
  else w.enterDoubt y .readElsewhere m.source (some m.source) (some m.number) true

/-- R148: where the claim that record x's entry ends holds record y untaken too, y stands in the UNVERIFIED row of
R43 already. -/
def doubtShared (w : Work) (x y : Nat) : Work :=
  match w.acct.grantedFor x with
  | some (_, claim) =>
    if y ∈ Work.untakenMembers claim then w.onRecord y (fun rec => { rec with custody := .unverified }) else w
  | none => w

/-- R145, R146: the entry of the record the move names, with the end of its claim; `other` is the record whose
identity was read. -/
def doubtExpected (w : Work) (m : Move) (other : Option (Nat × Record)) : Work :=
  match m.subject with
  | some x =>
    let w := match other with
      | some (y, _) => doubtShared w x y
      | none => w
    w.enterUnverified x .mismatch m.source (some m.source) (some m.number) false
  | none => w

/-- R146, R148: a pick that read another identity. The entry of the record expected is made whole, then the source is
doubted, then the record read is dealt with; a claim that both bind ends once, at the first entry. -/
def pickMismatch (w : Work) (m : Move) (id : Ident) : Work :=
  let w := (setTaken (w.releaseMark m)
    { m with subject := none, dest := .at m.source, state := .carrying, returning := true }).startWatchdog
  let other := w.acct.findIdent id
  let w := doubtSource (doubtExpected w m other) m.source
  match other with
  | some (y, rec) => (readElsewhere w m y rec).failClaim y
  | none => w

/-- R68: the identity of the record the move names. -/
def namedIdent (a : Account) (m : Move) : Option (Nat × Ident) :=
  match m.subject with
  | some r => (a.record r).map (fun rec => (r, rec.ident))
  | none => none

/-- R68: an accepted PICKED. -/
def acceptPicked (w : Work) (m : Move) (id : Ident) : Work × Answer :=
  match namedIdent w.acct m with
  | some (r, own) =>
    if own = id then pickMatch w m r else (pickMismatch w m id, .returnToSource m.source)
  | none => (pickMismatch w m id, .returnToSource m.source)

/-- R68: PICKED fits a move that is ACTIVE and not a VERIFY. -/
def pickFits (m : Move) : Bool := decide (m.state = .active) && decide (m.kind ≠ .verify)

/-- R68. -/
def reqPicked (move : Nat) (chars : List Byte) (s : State) : Judged :=
  if !identForm chars then refusal .malformed s
  else withTaken move s pickFits fun m => withReported chars s fun id =>
    let q := acceptPicked (.start s.acct) m id
    finishReport s q.1 (.answer q.2)

/-- PICKED (R68). -/
def execPicked (p : Port) (m : Byte) (move : Nat) (chars : List Byte) (s : State) :
    Host.Outcome State Fault Refusal :=
  .next (s.takeRequest p m .picked (reqPicked move chars))

/-! ### PLACED (R73, R149) -/

/-- R87: the members of a FETCH's claim not yet taken, and, if it has ended, its cause. -/
def causeUntaken (a : Account) (c : CauseClaim) : Nat :=
  match c.ended with
  | some (_, n) => n
  | none =>
    match a.claims.find? (fun q => decide (q.2.order = c.order)) with
    | some (_, claim) => (Work.untakenMembers claim).length
    | none => 0

/-- R73: the record of a completed move lands in a slot. -/
def landInSlot (w : Work) (m : Move) (r n : Nat) : Work :=
  let w := (w.onRecord r (fun x => { x with place := some (.slot n) })).recordPage r
  let w := w.setSlot n (.occupied r)
  if m.kind = .fetch ∧ fetchEnded m = false then
    ((w.onRecord r (fun x => { x with custody := .allotted })).onDu (fun du =>
      { du with waitFetch := du.waitFetch ++ [r] })).offerRoom
  else if m.kind = .retire then
    ((w.onRecord r (fun x => { x with custody := .outbound, retirePending := false })).onDu (fun du =>
      { du with waitCustody := du.waitCustody ++ [r] })).offerRoom
  else w.backToStored r

/-- R87: the PLACED of a FETCH at its exchange position. -/
def landAtExchange (w : Work) (m : Move) (r : Nat) (k : Scanner) : Work :=
  let w := (w.onRecord r (fun x => { x with custody := .presented, place := some (.exchange k) })).recordPage r
  let w := w.onXu k (fun x =>
    { x with position := .presented r, timer := some { count := 0, limit := w.acct.settings.takeLimit } })
  match m.cause with
  | none => w
  | some c =>
    let w := w.notify (.tool k) (.presented (w.acct.identOf r) c.tag m.number (causeUntaken w.acct c))
    match c.ended with
    | some (cause, _) => w.recallPosition k c.tag cause false
    | none => w

/-- R136: the PLACED of a TO_STATION. -/
def landAtStation (w : Work) (m : Move) (r : Nat) : Work :=
  let w := (w.onRecord r (fun x => { x with custody := .atStation, place := some .station })).recordPage r
  let w := w.onAcct (fun a =>
    { a with
      qu := { a.qu with
              station := .inspecting r, abandoned := none
              watchdog := some { count := 0, limit := a.settings.stationLimit } } })
  match w.acct.record r with
  | some rec =>
    w.notify .ins
      (.inspectPod rec.ident r rec.classCode rec.expCount rec.age (w.acct.effExp rec) (w.acct.effAge rec)
        rec.lastInspection m.number)
  | none => w

/-- R11: the PLACED of a RETIRE at the outtake port. -/
def leaveStocker (w : Work) (r : Nat) : Work :=
  let id := w.acct.identOf r
  ((w.onSm (fun sm => { sm with outtakeOccupied := true })).notify .sup (.retired id r)).deleteRecord r

/-- R149: a source station of a returning move becomes EMPTY. -/
def freeReturnStation (w : Work) (m : Move) : Work :=
  if m.source = .station ∧ w.acct.qu.station = .finished none then
    (w.onQu (fun q => { q with station := .empty })).tryStaging
  else w

/-- R149: the PLACED of a returning move; the chosen slot of a redirected one becomes UNKNOWN. -/
def landReturning (w : Work) (m : Move) : Work :=
  let w := freeReturnStation w m
  match m.dest with
  | .at (.slot n) => if w.acct.slot n = .expected m.number then (w.setSlot n .unknown).judgeGate else w
  | _ => w

/-- R73: an accepted PLACED. -/
def acceptPlaced (w : Work) (m : Move) : Work :=
  let w := endMove w m
  if m.returning then landReturning w m
  else
    match m.subject, m.dest with
    | some r, .at (.slot n) => landInSlot w m r n
    | some r, .at (.exchange k) => landAtExchange w m r k
    | some r, .at .station => landAtStation w m r
    | some r, .at .outtakePort => leaveStocker w r
    | _, _ => w

/-- R73: PLACED fits a CARRYING move. -/
def placeFits (m : Move) : Bool := decide (m.state = .carrying)

/-- R73. -/
def reqPlaced (move : Nat) (s : State) : Judged :=
  withTaken move s placeFits fun m => finishReport s (acceptPlaced (.start s.acct) m) .nothing

/-- PLACED (R73). -/
def execPlaced (p : Port) (m : Byte) (move : Nat) (s : State) : Host.Outcome State Fault Refusal :=
  .next (s.takeRequest p m .placed (reqPlaced move))

/-! ### READ (R74, R121) -/

/-- R121: a record believed in the slot enters UNVERIFIED; the slot itself is set by the read. Its notice carries the
VERIFY's move number too, as R146 has it; R122 lists no such field (DESIGN CHOICE, log 51). -/
def doubtOccupant (w : Work) (x : Option Nat) (cause : DoubtCause) (n move : Nat) (lastKnown : Option Place) : Work :=
  match x with
  | some r => w.enterUnverified r cause (.slot n) lastKnown (some move) false
  | none => w

/-- R121: a READ of a registered identity other than the believed record's. -/
def readOther (w : Work) (m : Move) (n : Nat) (x : Option Nat) (y : Nat) (rec : Record) : Work :=
  if rec.custody = .unverified then
    let w := (w.onRecord y (fun r =>
      { r with custody := .stored, place := some (.slot n), lastKnown := none })).recordPage y
    let w := ((w.setSlot n (.occupied y)).applyDeferred y).recheckIntake
    doubtOccupant w x .auditEmpty n m.number none
  else
    let w := w.enterUnverified y .auditConflict (.slot n) rec.place (some m.number) true
    doubtOccupant (w.setSlot n .unknown) x .auditConflict n m.number (some (.slot n))

/-- R121: a READ of an identity not in the index, or of an unreadable tag. -/
def readForeign (w : Work) (m : Move) (n : Nat) (x : Option Nat) : Work :=
  doubtOccupant (w.setSlot n .foreign) x .auditForeign n m.number (some (.slot n))

/-- R121: what a READ finds, by identity; none where the slot was read EMPTY. -/
def readFound (w : Work) (m : Move) (n : Nat) (x : Option Nat) (found : Option Ident) (unreadable : Bool) : Work :=
  if unreadable then readForeign w m n x
  else
    match found with
    | none => doubtOccupant (w.setSlot n .empty) x .auditEmpty n m.number none
    | some id =>
      match w.acct.findIdent id with
      | none => readForeign w m n x
      | some (y, rec) => if x = some y then w else readOther w m n x y rec

/-- R74: the record the VERIFY named goes through R10 if it is still STORED. -/
def afterRead (w : Work) (x : Option Nat) : Work :=
  match x with
  | some r => if (w.acct.record r).map (·.custody) = some .stored then w.applyDeferred r else w
  | none => w

/-- R74: an accepted READ. -/
def acceptRead (w : Work) (m : Move) (found : Option Ident) (unreadable : Bool) : Work :=
  match m.source with
  | .slot n =>
    let x := Work.occupant (w.acct.slot n)
    afterRead (readFound (endMove w m) m n x found unreadable) x
  | _ => endMove w m

/-- R74: READ fits an ACTIVE VERIFY. -/
def readFits (m : Move) : Bool := decide (m.state = .active) && decide (m.kind = .verify)

/-- R74. -/
def reqRead (move : Nat) (found : ReadReport) (s : State) : Judged :=
  match found with
  | .ident chars =>
    if !identForm chars then refusal .malformed s
    else withTaken move s readFits fun m => withReported chars s fun id =>
      finishReport s (acceptRead (.start s.acct) m (some id) false) .nothing
  | .empty => withTaken move s readFits fun m => finishReport s (acceptRead (.start s.acct) m none false) .nothing
  | .unreadable => withTaken move s readFits fun m => finishReport s (acceptRead (.start s.acct) m none true) .nothing

/-- READ (R74). -/
def execRead (p : Port) (m : Byte) (move : Nat) (found : ReadReport) (s : State) : Host.Outcome State Fault Refusal :=
  .next (s.takeRequest p m .read (reqRead move found))

/-! ### PROGRESS (R75) -/

/-- R75. -/
def reqProgress (move : Nat) (s : State) : Judged :=
  withTaken move s (fun _ => true) fun m =>
    let w := Work.start s.acct
    finishReport s (if m.state = .active ∨ m.state = .carrying then w.startWatchdog else w) .nothing

/-- PROGRESS (R75). -/
def execProgress (p : Port) (m : Byte) (move : Nat) (s : State) : Host.Outcome State Fault Refusal :=
  .next (s.takeRequest p m .progress (reqProgress move))

/-! ### FAULT PICK_FAILED (R150) -/

/-- R150. -/
def acceptPickFailed (w : Work) (m : Move) : Work :=
  let w := (endMove w m).releaseMark m
  match m.subject with
  | some r => w.enterUnverified r .pickFailed m.source (some m.source) (some m.number) true
  | none => w

/-- R76, R150. -/
def reqPickFailed (move : Nat) (s : State) : Judged :=
  withTaken move s pickFits fun m => finishReport s (acceptPickFailed (.start s.acct) m) .nothing

/-- FAULT PICK_FAILED (R150). -/
def execFaultPickFailed (p : Port) (m : Byte) (move : Nat) (s : State) : Host.Outcome State Fault Refusal :=
  .next (s.takeRequest p m .fault (reqPickFailed move))

/-! ### FAULT PLACE_BLOCKED (R151) -/

/-- R151: the blocked destination is marked. An EXPECTED slot is released by it, and staging is tried (R61): a VERIFY of
that slot may be eligible now. -/
def markBlocked (w : Work) (m : Move) : Work :=
  if m.returning then
    let w := freeReturnStation w m
    match m.dest with
    | .at (.slot n) => if w.acct.slot n = .expected m.number then (w.setSlot n .unknown).tryStaging else w
    | _ => w
  else
    match m.dest with
    | .at (.slot n) => (w.setSlot n .unknown).tryStaging
    | .at (.exchange k) => w.doubtPosition k
    | .at .station => (w.onQu (fun q => { q with station := .empty })).tryStaging
    | .at .outtakePort => w.onSm (fun sm => { sm with outtakeOccupied := true })
    | _ => w

/-- R151: a block of a FETCH at its exchange position ends its claim FAILED if it is still open. -/
def blockedClaim (w : Work) (m : Move) : Work :=
  match m.subject, m.dest with
  | some r, .at (.exchange _) => w.failClaim r
  | _, _ => w

/-- R151: an accepted PLACE_BLOCKED, with the answer. -/
def acceptBlocked (w : Work) (m : Move) : Work × Answer :=
  let w := (markBlocked w m).redirect m false none
  let slot := Work.redirectedTo w.acct
  let w := w.notify .sup
    (.blocked m.number m.kind (m.subject.map w.acct.identOf) ((Work.destPlace m.dest).getD m.source) slot)
  (blockedClaim w m, match slot with
    | some n => .redirect n
    | none => .wait)

/-- R76, R151. -/
def reqPlaceBlocked (move : Nat) (s : State) : Judged :=
  withTaken move s placeFits fun m =>
    let q := acceptBlocked (.start s.acct) m
    finishReport s q.1 (.answer q.2)

/-- FAULT PLACE_BLOCKED (R151). -/
def execFaultPlaceBlocked (p : Port) (m : Byte) (move : Nat) (s : State) : Host.Outcome State Fault Refusal :=
  .next (s.takeRequest p m .fault (reqPlaceBlocked move))

/-! ### FAULT MECHANICAL and the watchdog (R152) -/

/-- R152: what becomes of the record and the places of a move that a mechanical fault ended. -/
def doubtCarried (w : Work) (m : Move) (cause : DoubtCause) : Work :=
  if m.returning then freeReturnStation w m
  else
    match m.kind, m.subject with
    | .verify, some r => (w.bringHead r).hand r false
    | .verify, none => w
    | _, some r =>
      if m.state = .active then w.enterUnverified r cause m.source (some m.source) (some m.number) true
      else w.enterUnverified r cause .handler (some .handler) (some m.number) true
    | _, none => w

/-- R152, R76, R77: the taken move ends and the dispatch is FAULTED. -/
def breakDown (w : Work) (m : Move) (cause : DoubtCause) : Work :=
  let w := (endMove (w.stopHold m) m).onDu (fun du => { du with state := .faulted })
  let w := (w.withdrawToQueue).releaseMark m
  (doubtCarried w m cause).notify .sup (.dispatchFaulted m.number cause)

/-- R76, R152. -/
def reqMechanical (move : Nat) (s : State) : Judged :=
  withTaken move s (fun _ => true) fun m => finishReport s (breakDown (.start s.acct) m .mechanical) .nothing

/-- FAULT MECHANICAL (R152). -/
def execFaultMechanical (p : Port) (m : Byte) (move : Nat) (s : State) : Host.Outcome State Fault Refusal :=
  .next (s.takeRequest p m .fault (reqMechanical move))

end Sys2Proof.Machine
end

