-- ==== Sys2Proof/Machine/PortRequests.lean ====
section
/-! DEFINITION. The requests of every port: SET_FLAGS, FETCH_NOTICE, CLEAR_SUMMARY, SET_ATTENTION, and a request
whose code is not in the catalogue (chapters 9 and 10). -/

namespace Sys2Proof.Machine

/-- The notice state of a port changes. -/
def onNotices (s : State) (p : Port) (f : NoticeState → NoticeState) : State :=
  s.onAcct (fun a => { a with notices := a.notices.modify p f })

/-- The notice state of a port. -/
def noticesAt (s : State) (p : Port) : NoticeState := s.acct.notices.get p

/-- The number of notices in a port's queue. -/
def queuedNotices (s : State) (p : Port) : Nat := (noticesAt s p).queue.length

/-! ### SET_FLAGS (R183) -/

/-- R183: a value for one flag: 0, 1 or KEEP (log 13). -/
def flagValue (v : Nat) (old : Bool) : Option Bool :=
  match v with
  | 0 => some false
  | 1 => some true
  | 2 => some old
  | _ => none

/-- R183. -/
def reqSetFlags (p : Port) (pv nv : Nat) (s : State) : Judged :=
  match flagValue pv (s.io p).flagP, flagValue nv (s.io p).flagN with
  | some fp, some fn =>
    .done (s.onIo p (fun io => { io with flagP := fp, flagN := fn })) { test := true, count := queuedNotices s p } true
  | _, _ => refusal .malformed s

/-- SET_FLAGS (R183). -/
def execSetFlags (p : Port) (m : Byte) (pv nv : Nat) (s : State) : Host.Outcome State Fault Refusal :=
  .next (s.takeRequest p m .setFlags (reqSetFlags p pv nv))

/-! ### FETCH_NOTICE (R190, R192) -/

/-- R190, R192: the oldest entry leaves the queue, the overflow flag becomes clear, and in PULSE mode an enabled
entry left starts a pulse. -/
def NoticeState.fetched (ns : NoticeState) : NoticeState :=
  let left := { ns with queue := ns.queue.tail, overflow := false }
  { left with pulsing := ns.pulsing || (decide (ns.mode = .pulse) && left.holdsEnabled) }

/-- R190. -/
def reqFetchNotice (p : Port) (s : State) : Judged :=
  let ns := noticesAt s p
  .done (onNotices s p NoticeState.fetched)
    { test := !ns.queue.isEmpty, count := ns.queue.length - 1, payload := .notice ns.overflow ns.queue.head? } false

/-- FETCH_NOTICE (R190). -/
def execFetchNotice (p : Port) (m : Byte) (s : State) : Host.Outcome State Fault Refusal :=
  .next (s.takeRequest p m .fetchNotice (reqFetchNotice p))

/-! ### CLEAR_SUMMARY (R191) -/

/-- R191: any class is indicated. -/
def ClassSet.any (c : ClassSet) : Bool := c.info || c.attention || c.fault

/-- R191. -/
def reqClearSummary (p : Port) (s : State) : Judged :=
  .done (onNotices s p (fun ns => { ns with summary := .none }))
    { test := (noticesAt s p).summary.any, count := queuedNotices s p } false

/-- CLEAR_SUMMARY (R191). -/
def execClearSummary (p : Port) (m : Byte) (s : State) : Host.Outcome State Fault Refusal :=
  .next (s.takeRequest p m .clearSummary (reqClearSummary p))

/-! ### SET_ATTENTION (R192) -/

/-- R192: the modes, in that rule's order. -/
def attentionModeOf : Nat → Option AttentionMode
  | 0 => some .level
  | 1 => some .pulse
  | _ => none

/-- R192: the mask character. -/
def maskOf (n : Nat) : ClassSet where
  info := decide (n % 2 = 1)
  attention := decide (n / 2 % 2 = 1)
  fault := decide (n / 4 % 2 = 1)

/-- R192. -/
def reqSetAttention (p : Port) (mode mask : Nat) (s : State) : Judged :=
  match attentionModeOf mode with
  | none => refusal .malformed s
  | some md =>
    if 7 < mask then refusal .malformed s
    else
      let t := onNotices s p (fun ns => { ns with mode := md, mask := maskOf mask, pulsing := false })
      .done t { test := (noticesAt t p).asserted, count := queuedNotices s p } false

/-- SET_ATTENTION (R192). -/
def execSetAttention (p : Port) (m : Byte) (mode mask : Nat) (s : State) : Host.Outcome State Fault Refusal :=
  .next (s.takeRequest p m .setAttention (reqSetAttention p mode mask))

/-! ### A code that is not in the catalogue (R180, step 3) -/

/-- UNLISTED_CODE_REQUEST (R180). Only a code outside the catalogue makes this request. -/
def execUnlistedCodeRequest (p : Port) (m : Byte) (code : Byte) (s : State) : Host.Outcome State Fault Refusal :=
  .next (if (codeOf code).isNone then s.takeUnlisted p m code else s)

end Sys2Proof.Machine
end

