-- ==== Sys2Proof/Machine/RecoveryRequests.lean ====
section
/-! DEFINITION. The supervisor's recovery requests: RESOLVE, EXPUNGE and CLEAR_EXCHANGE (chapter 7). -/

namespace Sys2Proof.Machine

/-! ### RESOLVE (R156, R157) -/

/-- R156, checks 4 and 5: the place can take a resolved record. -/
def resolvable (a : Account) : Place → Bool
  | .slot n =>
    match a.slot n with
    | .empty => true
    | .unknown => true
    | .foreign => true
    | _ => false
  | .exchange k => decide ((a.xu[k]).position = .empty) || decide ((a.xu[k]).position = .unknown)
  | _ => false

/-- R157: an accepted RESOLVE. -/
def acceptResolve (w : Work) (r : Nat) (place : Place) : Work :=
  match place with
  | .slot n =>
    let w := (w.onRecord r (fun x =>
      { x with custody := .stored, place := some (.slot n), lastKnown := none, holder := none })).recordPage r
    ((w.setSlot n (.occupied r)).applyDeferred r).recheckIntake
  | .exchange k =>
    let w := (w.onRecord r (fun x =>
      { x with custody := .issued, place := some (.tool k), lastKnown := none, holder := some k })).recordPage r
    (w.emptyPosition k).recheckIntake
  | _ => w

/-- R156. The place is the 16-bit code of R186. -/
def reqResolve (id : Ident) (place : Nat) (s : State) : Judged :=
  match placeOfCode place with
  | none => refusal .malformed s
  | some pl =>
    withIdent id s fun r rec =>
      if rec.custody ≠ .unverified then refusal .wrongState s
      else if !resolvable s.acct pl then refusal .wrongState s
      else
        finish s (acceptResolve (.start s.acct) r pl)
          (fun t =>
            { test := decide (custodyOf t.acct r = some .stored), count := countCustody t.acct .unverified })

/-- RESOLVE (R156, R157). -/
def execResolve (p : Port) (m : Byte) (id : Ident) (place : Nat) (s : State) : Host.Outcome State Fault Refusal :=
  .next (s.takeRequest p m .resolve (reqResolve id place))

/-! ### EXPUNGE (R159) -/

/-- R159. -/
def reqExpunge (id : Ident) (s : State) : Judged :=
  withIdent id s fun r rec =>
    if rec.custody ≠ .unverified then refusal .wrongState s
    else
      finish s ((((Work.start s.acct).endQueued r .failed).deleteRecord r).recheckIntake)
        (fun _ => { test := true, count := rec.claimQueue.length })

/-- EXPUNGE (R159). -/
def execExpunge (p : Port) (m : Byte) (id : Ident) (s : State) : Host.Outcome State Fault Refusal :=
  .next (s.takeRequest p m .expunge (reqExpunge id))

/-! ### CLEAR_EXCHANGE (R158) -/

/-- R158. -/
def reqClearExchange (position : Nat) (s : State) : Judged :=
  match scannerOf position with
  | none => refusal .malformed s
  | some k =>
    if (s.acct.xu[k]).position ≠ .unknown then refusal .wrongState s
    else
      finish s ((Work.start s.acct).emptyPosition k)
        (fun t =>
          { test := decide ((t.acct.xu[k]).position = .opened), count := (t.acct.xu[k]).returnList.length })

/-- CLEAR_EXCHANGE (R158). -/
def execClearExchange (p : Port) (m : Byte) (position : Nat) (s : State) : Host.Outcome State Fault Refusal :=
  .next (s.takeRequest p m .clearExchange (reqClearExchange position))

end Sys2Proof.Machine
end

