-- ==== Sys2Proof/Machine/StationReports.lean ====
section
/-! DEFINITION. The request of the inspection station: RESULT (chapter 6). -/

namespace Sys2Proof.Machine

/-- R137: the verdicts, in that rule's order. -/
def verdictOf : Nat → Option Verdict
  | 0 => some .pass
  | 1 => some .fail
  | _ => none

/-- R138: what a PASS makes of a record's counts and attributes; R139: what a FAIL does. -/
def judgedRecord (v : Verdict) (defect : Nat) (x : Record) : Record :=
  match v with
  | .pass =>
    { x with
      lastInspection := some { verdict := v, defect := defect }
      expCount := 0, age := 0, due := false, rejected := false }
  | .fail => { x with lastInspection := some { verdict := v, defect := defect }, rejected := true }

/-- R141: the station becomes FINISHED and its FROM_STATION move is offered (group 2 of R59). -/
def finishStation (w : Work) (r : Nat) : Work :=
  ((w.onQu (fun q => { q with station := .finished (some r), watchdog := none })).onDu (fun du =>
    { du with waitStation := true })).offerRoom

/-- The claims a verdict ends (R138, R139). -/
def verdictEnds (v : Verdict) (rec : Record) : Nat :=
  match v with
  | .pass => 0
  | .fail => rec.claimQueue.length

/-- What an INSPECTION notice reports of a verdict. -/
def verdictNote : Verdict → InspectionEnd
  | .pass => .pass
  | .fail => .fail

/-- R137 to R139: an accepted RESULT. -/
def acceptResult (w : Work) (r : Nat) (rec : Record) (v : Verdict) (defect : Nat) : Work :=
  let w := (w.onRecord r (judgedRecord v defect)).recordPage r
  let w := match v with
    | .pass => w
    | .fail => w.endQueued r .rejected
  (finishStation w r).notify .sup
    (.inspection rec.ident r (verdictNote v) (some defect) (some (verdictEnds v rec)))

/-- R137: the checks on a RESULT of the form required. -/
def judgeResult (id : Ident) (v : Verdict) (defect : Nat) (s : State) : Judged :=
  match s.acct.findIdent id with
  | none => refusal .unknownId s
  | some (r, rec) =>
    if s.acct.qu.station = .inspecting r then
      finish s (acceptResult (.start s.acct) r rec v defect)
        (fun _ => { test := decide (v = .pass), count := verdictEnds v rec })
    else if s.acct.qu.abandoned = some r then refusal .late s
    else refusal .wrongState s

/-- R137. -/
def reqResult (chars : List Byte) (verdict defect : Nat) (s : State) : Judged :=
  match verdictOf verdict with
  | none => refusal .malformed s
  | some v =>
    if chars.length ≠ 24 ∨ 15 < defect then refusal .malformed s
    else
      match reportedIdent chars with
      | none => refusal .identityInvalid s
      | some id => judgeResult id v defect s

/-- RESULT (R137). -/
def execResult (p : Port) (m : Byte) (chars : List Byte) (verdict defect : Nat) (s : State) :
    Host.Outcome State Fault Refusal :=
  .next (s.takeRequest p m .result (reqResult chars verdict defect))

end Sys2Proof.Machine
end

