-- ==== Sys2Proof/Machine/ToolRequests.lean ====
section
/-! DEFINITION. The requests of the scanners: QUERY, CLAIM, CANCEL, TAKEN, RELEASE, PUT, EXPOSED and
TOOL_STATUS (chapters 2, 4 and 6). -/

namespace Sys2Proof.Machine

/-! ### QUERY (R53) -/

/-- R53: the record is grantable now to the asker; the supervisor's asking leaves out the scanner's own
condition. -/
def grantableTo (a : Account) (r : Nat) (rec : Record) (asker : Option Scanner) : Bool :=
  decide (rec.custody = .stored) && !rec.due && decide (rec.held = .none) && !rec.rejected && !rec.retirePending
    && rec.claimQueue.isEmpty && !a.named r && asker.all a.enabled

/-- R53: a queue entry as the asker sees it. -/
def queueEntry (asker : Option Scanner) (c : Claim) : QueueEntry where
  tool := c.tool
  priority := c.priority
  tag := if asker = some c.tool then some c.tag else none

/-- R53. -/
def reqQuery (p : Port) (id : Ident) (s : State) : Judged :=
  withIdent id s fun r rec =>
    unchanged s
      { test := grantableTo s.acct r rec (scannerAt p)
        count := rec.claimQueue.length
        payload := .query (summaryOf s.acct r rec)
          ((Work.queuedClaims s.acct r).map (fun q => queueEntry (scannerAt p) q.2)) }

/-- QUERY (R53). -/
def execQuery (p : Port) (m : Byte) (id : Ident) (s : State) : Host.Outcome State Fault Refusal :=
  .next (s.takeRequest p m .query (reqQuery p id))

/-! ### CLAIM (R32, R33) -/

/-- The records a list of identities names, if the index holds every one. -/
def findAll (a : Account) : List Ident → Option (List (Nat × Record))
  | [] => some []
  | id :: rest =>
    match a.findIdent id, findAll a rest with
    | some q, some l => some (q :: l)
    | _, _ => none

/-- R32, check 5: a member that no CLAIM may name. -/
def unclaimable (rec : Record) : Bool := rec.rejected || rec.retirePending || decide (rec.custody = .outbound)

/-- R32, check 6: an open claim of the scanner names the record. -/
def claimedBy (a : Account) (k : Scanner) (r : Nat) : Bool :=
  a.claims.any (fun p => decide (p.2.tool = k) && p.2.members.any (fun m => decide (m.record = some r)))

/-- R33: the sum, over the members, of the entries standing ahead of a new claim. -/
def depthSum (ms : List (Nat × Record)) : Nat := (ms.map (fun q => q.2.claimQueue.length)).sum

/-- R33: an accepted CLAIM, up to the grant check it brings up. -/
def acceptClaim (w : Work) (c : Nat) (k : Scanner) (tag : Nat) (ms : List Nat) : Work :=
  let w := w.onAcct (fun a =>
    { a with
      claims := Table.put a.claims c
        { tool := k, tag := tag, priority := .normal, members := ms.map (fun r => { record := some r, taken := false }),
          state := .waiting, order := a.nextOrder, heldForRoom := false }
      nextOrder := a.nextOrder + 1 })
  let w := ms.foldl (fun w r => w.onRecord r (fun x => { x with claimQueue := x.claimQueue ++ [c] })) w
  w.bringUp c

/-- R32: the checks of CLAIM that need the members, and R33. -/
def judgeClaim (k : Scanner) (tag : Nat) (ms : List (Nat × Record)) (s : State) : Judged :=
  let a := s.acct
  if ms.any (fun q => unclaimable q.2) then refusal .wrongState s
  else if ms.any (fun q => claimedBy a k q.1) then refusal .duplicate s
  else if Config.scannerClaims ≤ a.openClaims k then refusal .claimLimit s
  else
    match Table.lowestFree a.claims Config.claimCount with
    | none => refusal .noRoom s
    | some c =>
      if ms.any (fun q => decide (Config.claimQueueRoom ≤ q.2.claimQueue.length)) then refusal .queueFull s
      else if (a.settings.tools[k]).capacity < a.libraryLoad k + ms.length then refusal .libraryFull s
      else
        finish s (acceptClaim (.start a) c k tag (ms.map (·.1)))
          (fun _ => { test := true, count := depthSum ms })

/-- R28, R32. -/
def reqClaim (p : Port) (tag : Nat) (ids : List Ident) (s : State) : Judged :=
  withScanner p s fun k =>
    if Config.tagMax < tag then refusal .malformed s
    else if !s.acct.enabled k then refusal .disabled s
    else if ¬(1 ≤ ids.length ∧ ids.length ≤ 4 ∧ ids.all identOk = true ∧ ids.Nodup) then refusal .malformed s
    else if (s.acct.findClaim k tag).isSome then refusal .duplicate s
    else
      match findAll s.acct ids with
      | none => refusal .unknownId s
      | some ms => judgeClaim k tag ms s

/-- CLAIM (R32, R33). -/
def execClaim (p : Port) (m : Byte) (tag : Nat) (ids : List Ident) (s : State) : Host.Outcome State Fault Refusal :=
  .next (s.takeRequest p m .claim (reqClaim p tag ids))

/-! ### CANCEL (R44) -/

/-- R44: the member is in a row of R43 other than the two that end STORED at once and the UNVERIFIED one. -/
def onWayBack (a : Account) (r : Nat) : Bool :=
  match custodyOf a r with
  | some .inTransit => true
  | some .presented => true
  | some .allotted =>
    match a.moveOf r with
    | some m => decide (m.state ≠ .queued) && decide (m.state ≠ .staged)
    | none => false
  | _ => false

/-- R44: the members still on their way back after a cancel. -/
def wayBackCount (a : Account) (c : Claim) : Nat :=
  if c.state = .granted then (Work.untakenMembers c).countP (onWayBack a) else 0

/-- R44. -/
def reqCancel (p : Port) (tag : Nat) (s : State) : Judged :=
  withScanner p s fun k =>
    if Config.tagMax < tag then refusal .malformed s
    else
      match s.acct.findClaim k tag with
      | none => refusal .unknownId s
      | some (c, claim) =>
        finish s ((Work.start s.acct).endClaim c claim .cancelled false)
          (fun _ => { test := decide (claim.state = .waiting), count := wayBackCount s.acct claim })

/-- CANCEL (R44). -/
def execCancel (p : Port) (m : Byte) (tag : Nat) (s : State) : Host.Outcome State Fault Refusal :=
  .next (s.takeRequest p m .cancel (reqCancel p tag))

/-! ### TAKEN (R88, R40, R91) -/

/-- R85: a report that does not fit the phase: PHASE_ERROR, with its notice. -/
def phaseError (k : Scanner) (report : ScannerReport) (id : Ident) (s : State) : Judged :=
  let x := (s.acct.xu[k]).position
  .refused .phaseError (s.notify .sup (.phaseError k report id x (Account.phaseOf x)))

/-- R88, line 3: a RECOVER move from exchange k that the handler has taken names the record. -/
def lateTaken (a : Account) (k : Scanner) (r : Nat) : Bool :=
  a.du.taken.any (fun m =>
    decide (m.kind = .recover) && decide (m.source = .exchange k) && decide (m.subject = some r))

/-- R88, R91: the record becomes ISSUED to the scanner. -/
def issue (w : Work) (k : Scanner) (r : Nat) : Work :=
  (w.onRecord r (fun x => { x with custody := .issued, place := some (.tool k), holder := some k })).recordPage r

/-- R40: the member is marked taken. -/
def markTaken (r : Nat) (c : Claim) : Claim :=
  { c with members := c.members.map (fun m => if m.record = some r then { m with taken := true } else m) }

/-- R40: the claim with the member just taken goes on, or completes. -/
def takeMember (w : Work) (c : Nat) (claim : Claim) : Work :=
  if claim.members.all (·.taken) then
    (w.onAcct (fun a => { a with claims := Table.remove a.claims c })).notify (.tool claim.tool)
      (.claimEnded claim.tag .completed (Work.takenCount claim))
  else w.onClaim c (fun _ => claim)

/-- R88: the members of a claim still not taken. -/
def notTaken (c : Claim) : Nat := c.members.countP (fun m => !m.taken)

/-- R88, line 7: TAKEN of a PRESENTED pod. -/
def takePresented (k : Scanner) (r : Nat) (s : State) : Judged :=
  let w := issue (.start s.acct) k r
  match s.acct.grantedFor r with
  | some (c, old) =>
    let claim := markTaken r old
    finish s ((takeMember w c claim).emptyPosition k)
      (fun _ => { test := claim.members.all (·.taken), count := notTaken claim })
  | none => finish s (w.emptyPosition k) (fun _ => { test := false, count := 0 })

/-- R91: TAKEN at a RECALLED position whose RECOVER move the handler has not taken. -/
def takeRecalled (k : Scanner) (r : Nat) (s : State) : Judged :=
  let w := Work.start s.acct
  let w := (w.withdrawNaming r).onDu (fun du => { du with waitExchange := du.waitExchange.filter (· ≠ k) })
  finish s ((issue w k r).emptyPosition k) (fun _ => { test := false, count := 0 })

/-- R88. -/
def reqTaken (p : Port) (id : Ident) (s : State) : Judged :=
  withScanner p s fun k => withIdent id s fun r _ =>
    if lateTaken s.acct k r then refusal .late s
    else
      match (s.acct.xu[k]).position with
      | .tendered _ => refusal .wrongState s
      | .recalled q => if q = r then takeRecalled k r s else refusal .wrongState s
      | .presented q => if q = r then takePresented k r s else refusal .wrongState s
      | _ => phaseError k .taken id s

/-- TAKEN (R88). -/
def execTaken (p : Port) (m : Byte) (id : Ident) (s : State) : Host.Outcome State Fault Refusal :=
  .next (s.takeRequest p m .taken (reqTaken p id))

/-! ### RELEASE (R93) and PUT (R96) -/

/-- The record is ISSUED with holder k. -/
def issuedTo (rec : Record) (k : Scanner) : Bool := decide (rec.custody = .issued) && decide (rec.holder = some k)

/-- R93: a FETCH move to exchange k is QUEUED. -/
def fetchQueued (a : Account) (k : Scanner) : Bool :=
  a.du.queue.any (fun m => decide (m.kind = .fetch) && decide (m.dest = .at (.exchange k)))

/-- R93: an accepted RELEASE. -/
def acceptRelease (w : Work) (k : Scanner) (r : Nat) : Work :=
  let w := if r ∈ (w.acct.xu[k]).returnList then w
    else
      (w.onXu k (fun x => { x with returnList := x.returnList ++ [r] })).onRecord r
        (fun x => { x with returnRequested := true })
  let w := if fetchQueued w.acct k then w else w.onXu k (fun x => { x with lapse := false })
  w.tryOpen k

/-- The position of scanner k is OPEN. -/
def isOpen (a : Account) (k : Scanner) : Bool := decide ((a.xu[k]).position = .opened)

/-- The number of records on scanner k's return-request list. -/
def listed (a : Account) (k : Scanner) : Nat := (a.xu[k]).returnList.length

/-- R93. -/
def reqRelease (p : Port) (id : Ident) (s : State) : Judged :=
  withScanner p s fun k => withIdent id s fun r rec =>
    if !issuedTo rec k then refusal .notHolder s
    else if r ∉ (s.acct.xu[k]).returnList ∧ Config.returnListRoom ≤ listed s.acct k then refusal .queueFull s
    else
      finish s (acceptRelease (.start s.acct) k r)
        (fun t => { test := isOpen t.acct k, count := listed t.acct k })

/-- RELEASE (R93). -/
def execRelease (p : Port) (m : Byte) (id : Ident) (s : State) : Host.Outcome State Fault Refusal :=
  .next (s.takeRequest p m .release (reqRelease p id))

/-- R96: an accepted PUT; its RETURN move is offered in group 1 of R59. -/
def acceptPut (w : Work) (k : Scanner) (r : Nat) : Work :=
  let w := (w.onRecord r (fun x =>
    { x with custody := .tendered, place := some (.exchange k), holder := some k, returnRequested := false })).recordPage r
  let w := w.onXu k (fun x =>
    { x with
      returnList := x.returnList.filter (· ≠ r)
      lapse := x.lapse && decide (x.returnList.filter (· ≠ r) ≠ [])
      position := .tendered r, timer := none })
  (w.onDu (fun du => { du with waitExchange := du.waitExchange ++ [k] })).offerRoom

/-- R96. -/
def reqPut (p : Port) (id : Ident) (s : State) : Judged :=
  withScanner p s fun k => withIdent id s fun r rec =>
    let x := s.acct.xu[k]
    if x.position = .empty ∧ x.lapse = true then refusal .late s
    else if x.position ≠ .opened then phaseError k .put id s
    else if !issuedTo rec k then refusal .notHolder s
    else if r ∉ x.returnList then refusal .wrongState s
    else
      finish s (acceptPut (.start s.acct) k r)
        (fun t => { test := !t.acct.du.waitExchange.contains k, count := listed t.acct k })

/-- PUT (R96). -/
def execPut (p : Port) (m : Byte) (id : Ident) (s : State) : Host.Outcome State Fault Refusal :=
  .next (s.takeRequest p m .put (reqPut p id))

/-! ### EXPOSED (R124, R125) -/

/-- R124: an addition that saturates (R4). -/
def addSat (a b : Nat) : Nat := min (a + b) Config.countMax

/-- R124, R125: an accepted EXPOSED. -/
def acceptExposed (w : Work) (k : Scanner) (r : Nat) (rec : Record) (n : Nat) : Work :=
  let w := (w.onRecord r (fun x => { x with expCount := addSat x.expCount n })).recordPage r
  let limit := w.acct.effExp rec
  let sets := Work.comparisonSets w.acct r
  let w := if sets then w.onRecord r (fun x => { x with due := true }) else w
  if (rec.expCount < limit ∧ limit ≤ addSat rec.expCount n) ∨ sets = true then
    let note := Notice.limitReached rec.ident r (addSat rec.expCount n) limit
    (w.notify (.tool k) note).notify .sup note
  else w

/-- R124. -/
def reqExposed (p : Port) (id : Ident) (n : Nat) (s : State) : Judged :=
  withScanner p s fun k =>
    if n < 1 ∨ 65535 < n then refusal .malformed s
    else withIdent id s fun r rec =>
      if !issuedTo rec k then refusal .notHolder s
      else
        finish s (acceptExposed (.start s.acct) k r rec n)
          (fun _ =>
            { test := decide (addSat rec.expCount n < s.acct.effExp rec)
              count := s.acct.effExp rec - addSat rec.expCount n })

/-- EXPOSED (R124). -/
def execExposed (p : Port) (m : Byte) (id : Ident) (n : Nat) (s : State) : Host.Outcome State Fault Refusal :=
  .next (s.takeRequest p m .exposed (reqExposed p id n))

/-! ### TOOL_STATUS (R104) -/

/-- R104: the record whose place is a position. -/
def positionRecord : Position → Option Nat
  | .presented r => some r
  | .recalled r => some r
  | .tendered r => some r
  | _ => none

/-- R104: what is told of a position beyond its state. -/
def positionDetail (a : Account) (k : Scanner) : PositionDetail :=
  let x := a.xu[k]
  let seconds := (x.timer.map (·.count)).getD 0
  match x.position with
  | .presented r => .presented ((a.grantedFor r).map (·.2.tag)) seconds
  | .opened => .opened seconds
  | .recalled r => .move ((a.moveOf r).map (·.number))
  | .tendered r => .move ((a.moveOf r).map (·.number))
  | _ => .nothing

/-- R104: scanner k's exchange account. -/
def toolStatusOf (a : Account) (k : Scanner) : ToolStatus where
  position := (a.xu[k]).position
  phase := Account.phaseOf (a.xu[k]).position
  ident := (positionRecord (a.xu[k]).position).map a.identOf
  detail := positionDetail a k
  lapse := (a.xu[k]).lapse
  returnList := (a.xu[k]).returnList.map a.identOf
  interlock := (a.xu[k]).interlock
  holdRunning := (a.xu[k]).hold.isSome
  enabled := a.enabled k
  capacity := (a.settings.tools[k]).capacity
  load := a.libraryLoad k
  openClaims := a.openClaims k

/-- R104. -/
def reqToolStatus (p : Port) (s : State) : Judged :=
  withScanner p s fun k =>
    unchanged s
      { test := isOpen s.acct k, count := listed s.acct k, payload := .toolStatus (toolStatusOf s.acct k) }

/-- TOOL_STATUS (R104). -/
def execToolStatus (p : Port) (m : Byte) (s : State) : Host.Outcome State Fault Refusal :=
  .next (s.takeRequest p m .toolStatus (reqToolStatus p))

end Sys2Proof.Machine
end

