-- ==== Sys2Proof/Machine/Operands.lean ====
section
/-! DEFINITION. The payloads of requests: the fields of each request read from the characters of its payload
(R186), and the request a frame carries judged by its own rule. Encodings the spec leaves open are log 13's. -/

namespace Sys2Proof.Machine

/-! ### Reading fields -/

/-- A reader takes what it needs from the front of the payload. -/
abbrev Reads (α : Type) := List Byte → Option (α × List Byte)

/-- One character. -/
def read1 : Reads Nat
  | a :: rest => some (a.toNat, rest)
  | [] => none

/-- A number in two characters, low byte first. -/
def read2 : Reads Nat
  | a :: b :: rest => some (dec2 a b, rest)
  | _ => none

/-- A number in three characters, low byte first. -/
def read3 : Reads Nat
  | a :: b :: c :: rest => some (dec3 a b c, rest)
  | _ => none

/-- A run of characters. -/
def readChars (n : Nat) : Reads (List Byte) := fun l =>
  if l.length < n then none else some (l.take n, l.drop n)

/-- An identity. -/
def readIdent : Reads Ident := readChars 12

/-- R186: an optional field, given where its selector bit is set. -/
def readOpt {α : Type} (selector bit : Nat) (r : Reads α) : Reads (Option α) := fun l =>
  if selector / 2 ^ bit % 2 = 1 then (r l).map (fun q => (some q.1, q.2)) else some (none, l)

/-- R186: a selector character with no bit beyond the request's fields. -/
def readSelector (fields : Nat) : Reads Nat := fun l =>
  match read1 l with
  | some (n, rest) => if n < 2 ^ fields then some (n, rest) else none
  | none => none

/-- R186: nothing is left over. -/
def noMore {α : Type} (x : α) (rest : List Byte) : Option α := if rest.isEmpty then some x else none

/-- The identities of a list, 12 characters each. -/
def splitIdents : Nat → List Byte → Option (List Ident)
  | _, [] => some []
  | 0, _ => none
  | fuel + 1, l => if l.length < 12 then none else (splitIdents fuel (l.drop 12)).map (fun t => l.take 12 :: t)

/-! ### Judging a payload -/

/-- A judgement of a payload: none where its length does not fit or a selector is of no form (R180, step 6). -/
abbrev Judge := State → Judged

/-- A payload without fields. -/
def onNothing (j : Judge) (pl : List Byte) : Option Judge := if pl.isEmpty then some j else none

/-- A payload of one field. -/
def onOne {α : Type} (r : Reads α) (j : α → Judge) (pl : List Byte) : Option Judge :=
  (r pl).bind (fun q => noMore (j q.1) q.2)

/-- A payload of two fields. -/
def onTwo {α β : Type} (r : Reads α) (t : Reads β) (j : α → β → Judge) (pl : List Byte) : Option Judge :=
  (r pl).bind (fun q => onOne t (j q.1) q.2)

/-- A payload of three fields. -/
def onThree {α β γ : Type} (r : Reads α) (t : Reads β) (u : Reads γ) (j : α → β → γ → Judge) (pl : List Byte) :
    Option Judge :=
  (r pl).bind (fun q => onTwo t u (j q.1) q.2)

/-- R32: a tag and a list of identities; the number of identities is a check of CLAIM's own table. -/
def onClaim (p : Port) (pl : List Byte) : Option Judge :=
  (read1 pl).bind (fun q => (splitIdents q.2.length q.2).map (fun ids => reqClaim p q.1 ids))

/-- R13. -/
def onRegister (pl : List Byte) : Option Judge :=
  (readSelector 3 pl).bind fun (sel, l) => (readIdent l).bind fun (id, l) => (read2 l).bind fun (cls, l) =>
    onThree (readOpt sel 0 read3) (readOpt sel 1 read3) (readOpt sel 2 read2) (reqRegister id cls) l

/-- R18, R19: the mode, TRY or WAIT, and the identity. -/
def onHold (pl : List Byte) : Option Judge :=
  (read1 pl).bind fun (mode, l) =>
    match mode with
    | 0 => onOne readIdent reqHoldTry l
    | 1 => onOne readIdent reqHoldWait l
    | _ => none

/-- R21. The identity follows the selector, ahead of the class code: R21 does not name it among the fields carried
(DESIGN CHOICE, log 13). -/
def onRewrite (pl : List Byte) : Option Judge :=
  (readSelector 5 pl).bind fun (sel, l) => (readIdent l).bind fun (id, l) => (read2 l).bind fun (cls, l) =>
    (readOpt sel 0 read3 l).bind fun (expLimit, l) => (readOpt sel 1 read3 l).bind fun (ageLimit, l) =>
      onThree (readOpt sel 2 read2) (readOpt sel 3 read3) (readOpt sel 4 read3)
        (reqRewrite id cls expLimit ageLimit) l

/-- R186: what the two selectors of AMEND ask of one field. -/
def fieldChange (given : Option Nat) (absent : Bool) : FieldChange :=
  match given with
  | some v => .assign v
  | none => if absent then .absent else .keep

/-- A bit of a selector. -/
def selected (selector bit : Nat) : Bool := decide (selector / 2 ^ bit % 2 = 1)

/-- R186: a field marked in both selectors. -/
def markedTwice (given absent : Nat) : Bool := (List.range 8).any (fun i => selected given i && selected absent i)

/-- R22: a selector that names a field AMEND does not change, such as a count. -/
def namesOther (given absent : Nat) : Bool := decide (16 ≤ given) || decide (16 ≤ absent)

/-- R22, R186. The identity follows the two selectors, ahead of the class code: R22 does not name it among the fields
carried (DESIGN CHOICE, log 13). -/
def onAmend (pl : List Byte) : Option Judge :=
  (read1 pl).bind fun (given, l) => (read1 l).bind fun (absent, l) =>
    if markedTwice given absent || namesOther given absent then none
    else
      (readIdent l).bind fun (id, l) => (readOpt given 0 read2 l).bind fun (cls, l) =>
        onThree (readOpt given 1 read2) (readOpt given 2 read3) (readOpt given 3 read3)
          (fun home expLimit ageLimit =>
            reqAmend id (fieldChange cls (selected absent 0)) (fieldChange home (selected absent 1))
              (fieldChange expLimit (selected absent 2)) (fieldChange ageLimit (selected absent 3)) false) l

/-- R23: an identity or a record number, told apart by the length. -/
def onReadRecord (pl : List Byte) : Option Judge :=
  if pl.length = 12 then some (reqReadRecord (.byIdent pl))
  else onOne read2 (fun n => reqReadRecord (.byNumber n)) pl

/-- R24: the class filter is an optional field. -/
def onFind (pl : List Byte) : Option Judge :=
  (readSelector 1 pl).bind fun (sel, l) => onThree read2 read1 (readOpt sel 0 read2) reqFind l

/-- R118, R186: a slot, or 0xFFFF for ANY. -/
def anySlot (n : Nat) : Option Nat := if n = 0xFFFF then none else some n

/-- R112. -/
def onCloseRange (pl : List Byte) : Option Judge :=
  (read1 pl).bind fun (range, l) => onThree read2 read3 read1 (reqCloseRange range) l

/-- R103. -/
def onSetTool (pl : List Byte) : Option Judge :=
  (readSelector 2 pl).bind fun (sel, l) => onThree read1 (readOpt sel 0 read1) (readOpt sel 1 read1) reqSetTool l

/-- R184. Each limit has the 2 characters R186 gives seconds, not the 3 it gives a limit (DESIGN CHOICE, log 13). -/
def onSetTimers (pl : List Byte) : Option Judge :=
  (readSelector 5 pl).bind fun (sel, l) => (readOpt sel 0 read2 l).bind fun (take, l) =>
    (readOpt sel 1 read2 l).bind fun (hold, l) =>
      onThree (readOpt sel 2 read2) (readOpt sel 3 read2) (readOpt sel 4 read2) (reqSetTimers take hold) l

/-- R126. -/
def onSetDefaults (pl : List Byte) : Option Judge :=
  (readSelector 2 pl).bind fun (sel, l) => onTwo (readOpt sel 0 read3) (readOpt sel 1 read3) reqSetDefaults l

/-- R129. -/
def onSetSweep (pl : List Byte) : Option Judge :=
  (readSelector 2 pl).bind fun (sel, l) => onTwo (readOpt sel 0 read2) (readOpt sel 1 read1) reqSetSweep l

/-- R74: a move number, a choice character, and 24 characters in the first form only. -/
def onRead (pl : List Byte) : Option Judge :=
  (read1 pl).bind fun (move, l) => (read1 l).bind fun (form, l) =>
    match form with
    | 0 => onOne (readChars 24) (fun chars => reqRead move (.ident chars)) l
    | 1 => onNothing (reqRead move .empty) l
    | 2 => onNothing (reqRead move .unreadable) l
    | _ => none

/-- R76: the causes, in that rule's order. -/
def onFault (pl : List Byte) : Option Judge :=
  (read1 pl).bind fun (move, l) => (read1 l).bind fun (cause, l) =>
    match cause with
    | 0 => onNothing (reqPickFailed move) l
    | 1 => onNothing (reqPlaceBlocked move) l
    | 2 => onNothing (reqMechanical move) l
    | _ => none

/-- R184, R186: the judgement of a catalogued request's payload on a port. -/
def onPayload (p : Port) (c : Code) (pl : List Byte) : Option Judge :=
  match c with
  | .query => onOne readIdent (reqQuery p) pl
  | .claim => onClaim p pl
  | .cancel => onOne read1 (reqCancel p) pl
  | .taken => onOne readIdent (reqTaken p) pl
  | .release => onOne readIdent (reqRelease p) pl
  | .put => onOne readIdent (reqPut p) pl
  | .exposed => onTwo readIdent read2 (reqExposed p) pl
  | .toolStatus => onNothing (reqToolStatus p) pl
  | .register => onRegister pl
  | .retire => onOne readIdent reqRetire pl
  | .hold => onHold pl
  | .unhold => onOne readIdent reqUnhold pl
  | .rewrite => onRewrite pl
  | .amend => onAmend pl
  | .readRecord => onReadRecord pl
  | .find => onFind pl
  | .promote => onTwo read1 read1 reqPromote pl
  | .inspect => onOne readIdent reqInspect pl
  | .relocate => onTwo readIdent read2 (fun id n => reqRelocate id (anySlot n)) pl
  | .audit => onTwo read2 read3 reqAudit pl
  | .resolve => onTwo readIdent read2 reqResolve pl
  | .expunge => onOne readIdent reqExpunge pl
  | .clearExchange => onOne read1 reqClearExchange pl
  | .closeRange => onCloseRange pl
  | .openRange => onOne read1 reqOpenRange pl
  | .outtakeCleared => onNothing reqOuttakeCleared pl
  | .setTool => onSetTool pl
  | .setTimers => onSetTimers pl
  | .setDefaults => onSetDefaults pl
  | .setReserve => onOne read1 reqSetReserve pl
  | .setSweep => onSetSweep pl
  | .startSweep => onNothing reqStartSweep pl
  | .stopSweep => onNothing reqStopSweep pl
  | .pause => onNothing reqPause pl
  | .resume => onNothing reqResume pl
  | .clear => onNothing reqClear pl
  | .sync => onNothing reqSync pl
  | .format => onNothing reqFormat pl
  | .identify => onNothing reqIdentify pl
  | .take => onNothing reqTake pl
  | .picked => onTwo read1 (readChars 24) reqPicked pl
  | .placed => onOne read1 reqPlaced pl
  | .read => onRead pl
  | .progress => onOne read1 reqProgress pl
  | .fault => onFault pl
  | .result => onThree (readChars 24) read1 read1 reqResult pl
  | .setFlags => onTwo read1 read1 (reqSetFlags p) pl
  | .fetchNotice => onNothing (reqFetchNotice p) pl
  | .clearSummary => onNothing (reqClearSummary p) pl
  | .setAttention => onTwo read1 read1 (reqSetAttention p) pl

/-- R180: step 6, then step 7. -/
def judgePayload (p : Port) (c : Code) (pl : List Byte) : Judge := fun s =>
  match onPayload p c pl with
  | some j => j s
  | none => refusal .malformed s

/-- R179, R180: a request frame is taken. -/
def State.takeFrame (s : State) (p : Port) (f : Frame) : State :=
  match codeOf f.code with
  | some c => s.takeRequest p f.modifier c (judgePayload p c f.payload)
  | none => s.takeUnlisted p f.modifier f.code

end Sys2Proof.Machine
end

