-- ==== Sys2Proof/Machine/LinkEvents.lean ====
section
/-! DEFINITION. The events of the links: characters and frames arriving, responses sent, and links coming UP and
going DOWN (chapter 9). -/

namespace Sys2Proof.Machine

/-! ### Receiving (R176, R178, R179) -/

/-- The part has power and RESET is high. -/
def State.alive (s : State) : Bool := decide (s.power = .reloading) || decide (s.power = .running)

/-- R176, R177: characters on a port are taken: its link is UP and, on the supervisor port, it is addressed. -/
def State.listens (s : State) (p : Port) : Bool :=
  s.alive && s.acct.up.get p && (decide (p ≠ .sup) || s.links.addressed)

/-- R178: the frame reader of a port. -/
def State.setReader (s : State) (p : Port) (r : Reader) : State := s.onIo p (fun io => { io with reader := r })

/-- R179: a complete frame is taken, held, or discarded unanswered. -/
def State.deliver (s : State) (p : Port) (f : Frame) : State :=
  match (s.io p).answering, (s.io p).heldFrame with
  | none, _ => s.takeFrame p f
  | some _, none => s.onIo p (fun io => { io with heldFrame := some f })
  | some _, some _ => s

/-- R178: the LENGTH of a frame. -/
def frameLength (f : Frame) : Nat := f.payload.length + 2

/-- R178: a LENGTH that is not bad. -/
def lengthOk (n : Nat) : Bool := decide (2 ≤ n) && decide (n ≤ 250)

/-- FRAME_COMPLETE (R178, R179): the frame's last CRC character has arrived and matches (log 2). -/
def execFrameComplete (p : Port) (f : Frame) (s : State) : Host.Outcome State Fault Refusal :=
  .next (if s.listens p && lengthOk (frameLength f) then (s.setReader p .hunting).deliver p f else s)

/-- R178: the frame whose characters, LENGTH first, have been collected, if its CRC matches. -/
def frameOf (got : List Byte) : Option Frame :=
  match got with
  | n :: rest =>
    let body := rest.take n.toNat
    if rest.drop n.toNat = crcChars (n :: body) then
      match body with
      | code :: modifier :: payload => some { code := code, modifier := modifier, payload := payload }
      | _ => none
    else none
  | [] => none

/-- R178: a character arrives while a frame is being collected. -/
def State.collect (s : State) (p : Port) (got : List Byte) : State :=
  match got with
  | [] => s
  | n :: rest =>
    if !lengthOk n.toNat then s.setReader p .hunting
    else if rest.length < n.toNat + 2 then s.setReader p (.collecting got)
    else
      match frameOf got with
      | some f => (s.setReader p .hunting).deliver p f
      | none => s.setReader p .hunting

/-- CHARACTER_RECEIVED (R178). -/
def execCharacterReceived (p : Port) (c : Byte) (s : State) : Host.Outcome State Fault Refusal :=
  .next
    (if s.listens p then
      match (s.io p).reader with
      | .hunting => if c = 0x5A then s.setReader p (.collecting []) else s
      | .collecting got => s.collect p (got ++ [c])
    else s)

/-- FRAMING_ERROR (R175, R178): the frame in progress is discarded. -/
def execFramingError (p : Port) (s : State) : Host.Outcome State Fault Refusal :=
  .next (if s.alive then s.setReader p .hunting else s)

/-- FRAME_GAP_TIMEOUT (R178): the frame in progress is discarded. -/
def execFrameGapTimeout (p : Port) (s : State) : Host.Outcome State Fault Refusal :=
  .next (if s.alive then s.setReader p .hunting else s)

/-- R176: the supervisor port becomes addressed or not addressed. -/
def State.setAddressed (s : State) (b : Bool) : State := { s with links := { s.links with addressed := b } }

/-- R176: an address character carries the part's own station number in its four low bits. -/
def ownStation (s : State) (c : Byte) : Bool := decide (c.setWidth 4 = s.links.station)

/-- ADDRESS_CHARACTER (R176). While the supervisor link is DOWN the character is not taken (DESIGN CHOICE, log 50). -/
def execAddressCharacter (c : Byte) (s : State) : Host.Outcome State Fault Refusal :=
  .next
    (if s.alive && s.acct.up.sup then
      if ownStation s c then (s.setReader .sup .hunting).setAddressed true
      else ((s.setReader .sup .hunting).setAddressed false).onIo .sup (fun io => { io with heldFrame := none })
    else s)

/-- RESPONSE_SENT (R179): the port is no longer answering, and its held frame, if any, is taken. -/
def execResponseSent (p : Port) (s : State) : Host.Outcome State Fault Refusal :=
  .next
    (if s.alive && (s.io p).answering.isSome then
      let t := s.onIo p (fun io => { io with answering := none, heldFrame := none })
      match (s.io p).heldFrame with
      | some f => t.takeFrame p f
      | none => t
    else s)

/-! ### Link state (R177, R154, R81) -/

/-- R177: which ports' link changes are told to the supervisor. -/
def toldToSup : Port → Bool
  | .sup => false
  | _ => true

/-- R154, R54, R81: what a link coming UP does beyond its own port. -/
def upWork (w : Work) : Port → Work
  | .tool k => bringUpScanner (w.onAcct (fun a => { a with grace := a.grace.set k none })) k
  | .hdl => w.tryStaging
  | _ => w

/-- R177: the LINK notice of a change, which RELOADING and the supervisor's own port do not send. It carries the port at
every change (DESIGN CHOICE, log 15). -/
def linkNotice (s : State) (w : Work) (p : Port) (change : LinkChange) : Work :=
  if decide (s.power = .running) && toldToSup p then w.notify .sup (.link p change) else w

/-- LINK_UP (R177, R154, R81). -/
def execLinkUp (p : Port) (s : State) : Host.Outcome State Fault Refusal :=
  .next
    (if s.alive && !s.acct.up.get p then
      let w := Work.start { s.acct with up := s.acct.up.set p true, everUp := s.acct.everUp.set p true }
      let w := if s.acct.everUp.get p then linkNotice s w p .up else w
      s.commit (upWork w p)
    else s)

/-- R193: the attention settings at a link DOWN; the queue is kept. -/
def NoticeState.defaults (ns : NoticeState) : NoticeState :=
  { ns with mode := .level, mask := { info := true, attention := true, fault := true }, pulsing := false }

/-- R177: what a link going DOWN does to the port itself. -/
def State.dropPort (s : State) (p : Port) : State :=
  let s := s.onIo p (fun io => { io with reader := .hunting, heldFrame := none, flagP := false, flagN := false })
  if p = .sup then s.setAddressed false else s

/-- R154: the grace timer of a tool port starts. -/
def startGrace (w : Work) : Port → Work
  | .tool k =>
    w.onAcct (fun a => { a with grace := a.grace.set k (some { count := 0, limit := a.settings.graceLimit }) })
  | _ => w

/-- R177: what a link going DOWN does to the account. -/
def downWork (s : State) (p : Port) : Work :=
  let w := Work.start
    { s.acct with up := s.acct.up.set p false, notices := s.acct.notices.modify p NoticeState.defaults }
  let w := if s.power = .running then startGrace w p else w
  linkNotice s w p .down

/-- LINK_DOWN (R177, R154, R81). -/
def execLinkDown (p : Port) (s : State) : Host.Outcome State Fault Refusal :=
  .next (if s.alive && s.acct.up.get p then (s.dropPort p).commit (downWork s p) else s)

end Sys2Proof.Machine
end

