-- ==== Sys2Proof/Machine/LineEvents.lean ====
section
/-! DEFINITION. The events of the interlock lines and the attention outputs (R99, R100, R70, R192). -/

namespace Sys2Proof.Machine

/-- INTERLOCK_ASSERTION (R99, R100): the debounced level becomes asserted. -/
def execInterlockAssertion (k : Scanner) (s : State) : Host.Outcome State Fault Refusal :=
  .next
    (if s.alive then s.commit ((Work.start s.acct).onXu k (fun x => { x with interlock := true })) else s)

/-- R70: a FETCH HOLDING at the interlock of exchange k is released with PROCEED. -/
def releaseHold (w : Work) (k : Scanner) : Work :=
  match w.acct.du.taken with
  | some m =>
    if m.state = .holding .interlock ∧ m.dest = .at (.exchange k) then
      (((w.onXu k (fun x => { x with hold := none })).onDu (fun du =>
        { du with taken := some { m with state := .carrying } })).startWatchdog).notify .hdl (.proceed m.number)
    else w
  | none => w

/-- R100: what the clearing of interlock k does. -/
def clearInterlock (w : Work) (k : Scanner) : Work :=
  (releaseHold ((w.onXu k (fun x => { x with interlock := false })).tryOpen k) k).tryStaging

/-- INTERLOCK_CLEARING (R99, R100): the debounced level becomes clear. -/
def execInterlockClearing (k : Scanner) (s : State) : Host.Outcome State Fault Refusal :=
  .next
    (if s.alive && (s.acct.xu[k]).interlock then s.commit (clearInterlock (.start s.acct) k) else s)

/-- ATTENTION_PULSE_END (R192): 1 ms after its start a pulse ends. -/
def execAttentionPulseEnd (p : Port) (s : State) : Host.Outcome State Fault Refusal :=
  .next (if s.alive then onNotices s p (fun ns => { ns with pulsing := false }) else s)

end Sys2Proof.Machine
end

