-- ==== Sys2Proof/Machine/TimerEvents.lean ====
section
/-! DEFINITION. The expiries of the timers, and the one-second tick of the Time Base (R77, R89, R95, R101, R128,
R140, R155). An expiry command acts while its timer runs, and has no effect otherwise (log 8). -/

namespace Sys2Proof.Machine

/-- An expiry acts only while the part is in service; in RELOADING no timer runs. -/
def State.expire (s : State) (w : Option Work) : State :=
  if s.power = .running then
    match w with
    | some w => s.commit w
    | none => s
  else s

/-! ### Expiries -/

/-- R77: the move watchdog, if it runs over a taken move. -/
def watchdogWork (a : Account) : Option Work :=
  match a.du.watchdog, a.du.taken with
  | some _, some m => some (breakDown (.start a) m .watchdog)
  | _, _ => none

/-- MOVE_WATCHDOG_EXPIRY (R77, R152). -/
def execMoveWatchdogExpiry (s : State) : Host.Outcome State Fault Refusal := .next (s.expire (watchdogWork s.acct))

/-- R101: the hold timer of exchange k, if it runs over a held move. -/
def holdWork (k : Scanner) (a : Account) : Option Work :=
  match (a.xu[k]).hold, a.du.taken with
  | some _, some m =>
    if m.state = .holding .interlock ∧ m.dest = .at (.exchange k) then
      some (((Work.start a).redirect m true none).redirectNotice m)
    else none
  | _, _ => none

/-- HOLD_LIMIT_EXPIRY (R101, R71). -/
def execHoldLimitExpiry (k : Scanner) (s : State) : Host.Outcome State Fault Refusal :=
  .next (s.expire (holdWork k s.acct))

/-- R89: the take timer of exchange k, if it runs: the waiting member's claim ends UNTAKEN, which recalls the
position. -/
def takeWork (k : Scanner) (a : Account) : Option Work :=
  match (a.xu[k]).position, (a.xu[k]).timer, (a.xu[k]).interlock with
  | .presented r, some _, false => (a.grantedFor r).map (fun q => (Work.start a).endClaim q.1 q.2 .untaken false)
  | _, _, _ => none

/-- TAKE_TIMER_EXPIRY (R89, R48). -/
def execTakeTimerExpiry (k : Scanner) (s : State) : Host.Outcome State Fault Refusal :=
  .next (s.expire (takeWork k s.acct))

/-- R95: the access timer of exchange k, if it runs. -/
def accessWork (k : Scanner) (a : Account) : Option Work :=
  match (a.xu[k]).position, (a.xu[k]).timer, (a.xu[k]).interlock with
  | .opened, some _, false =>
    some ((((Work.start a).onXu k (fun x => { x with position := .empty, timer := none, lapse := true })).notify
      (.tool k) (.accessWithdrawn (a.xu[k]).returnList.length)).tryStaging)
  | _, _, _ => none

/-- ACCESS_EXPIRY (R95). -/
def execAccessExpiry (k : Scanner) (s : State) : Host.Outcome State Fault Refusal :=
  .next (s.expire (accessWork k s.acct))

/-- R155: a port's notice queue is emptied. -/
def emptyPort (w : Work) (p : Port) : Work :=
  w.onAcct (fun a => { a with notices := a.notices.modify p NoticeState.emptied })

/-- R155: the grace timer of tool port k, if it runs. The ends come first and the emptying after them, so that what
they enter at the port, the ACCESS notice of a position they free among it, goes with the queue (log 32). -/
def graceWork (k : Scanner) (a : Account) : Option Work :=
  match a.grace[k] with
  | some _ =>
    let w := (Work.start { a with grace := a.grace.set k none }).endScanner k .linkLost true
    some ((emptyPort w (.tool k)).notify .sup (.link (.tool k) .graceExpired))
  | none => none

/-- GRACE_EXPIRY (R155). -/
def execGraceExpiry (k : Scanner) (s : State) : Host.Outcome State Fault Refusal :=
  .next (s.expire (graceWork k s.acct))

/-- R140: the station watchdog, if it runs over an inspection. -/
def stationWork (a : Account) : Option Work :=
  match a.qu.station, a.qu.watchdog with
  | .inspecting r, some _ =>
    let w := (finishStation (.start a) r).onQu (fun q => { q with abandoned := some r })
    let id := a.identOf r
    some ((w.notify .ins (.inspectAbandoned id r)).notify .sup (.inspection id r .abandoned none none))
  | _, _ => none

/-- STATION_WATCHDOG_EXPIRY (R140). -/
def execStationWatchdogExpiry (s : State) : Host.Outcome State Fault Refusal :=
  .next (s.expire (stationWork s.acct))

/-! ### The sweep (R128, R130, R131) -/

/-- R130: a record the ageing pass takes. -/
def aged (rec : Record) : Bool := decide (rec.custody ≠ .unverified) && decide (rec.custody ≠ .atStation)

/-- R130: the ageing pass has come past some records: how many it aged, and those it made due, ascending. -/
structure Ageing where
  work : Work
  agedCount : Nat
  madeDue : List Nat

/-- R130: one record of the ageing pass. -/
def ageRecord (period : Nat) (t : Ageing) (q : Nat × Record) : Ageing :=
  if aged q.2 then
    let age := addSat q.2.age period
    let w := t.work.onRecord q.1 (fun x => { x with age := age })
    let w := if age = q.2.age then w else w.recordPage q.1
    if Work.comparisonSets w.acct q.1 then
      { work := (w.onRecord q.1 (fun x => { x with due := true })).recordPage q.1
        agedCount := t.agedCount + 1, madeDue := t.madeDue ++ [q.1] }
    else { work := w, agedCount := t.agedCount + 1, madeDue := t.madeDue }
  else t

/-- R130: the ageing pass, in ascending record number. -/
def ageAll (w : Work) (period : Nat) : Ageing :=
  w.acct.records.foldl (ageRecord period) { work := w, agedCount := 0, madeDue := [] }

/-- R131: the DUE notices of one record the pass made due. -/
def noticeDue (w : Work) (r : Nat) : Work :=
  match w.acct.record r with
  | some rec => w.dueNotices r (Work.limitOf w.acct rec) true
  | none => w

/-- R131: a record the pass made due that stands STORED is handed over for routing. -/
def handDue (w : Work) (r : Nat) : Work := if custodyOf w.acct r = some .stored then w.hand r false else w

/-- R128: the mode is applied after an expiry. -/
def applyMode (w : Work) : Work :=
  match w.acct.settings.sweepMode with
  | .periodic => loadSweep w
  | .oneShot => stopTimer w

/-- R128, R130, R131: the sweep timer, if it runs. -/
def sweepWork (a : Account) : Option Work :=
  match a.settings.sweepRunning, a.qu.sweepLoaded with
  | true, some period =>
    let t := ageAll (.start a) period
    let w := t.madeDue.foldl noticeDue t.work
    let w := w.notify .sup (.sweepDone t.agedCount t.madeDue.length period)
    some (applyMode (t.madeDue.foldl handDue w))
  | _, _ => none

/-- SWEEP_EXPIRY (R128). -/
def execSweepExpiry (s : State) : Host.Outcome State Fault Refusal := .next (s.expire (sweepWork s.acct))

/-! ### The tick (R102, R127; log 7) -/

/-- One more tick on a running timer. -/
def countTick (t : Option Timer) : Option Timer := t.map (fun t => { t with count := t.count + 1 })

/-- R100, R102: an Exchange Unit at a tick; a paused timer counts no tick. -/
def tickExchange (x : ExchangeUnit) : ExchangeUnit :=
  { x with timer := if x.interlock then x.timer else countTick x.timer, hold := countTick x.hold }

/-- R102, R127: every running timer counts the tick. -/
def tickAccount (a : Account) : Account :=
  { a with
    du := { a.du with watchdog := countTick a.du.watchdog }
    xu := a.xu.map tickExchange
    qu := { a.qu with
            watchdog := countTick a.qu.watchdog
            sweepCounted := if a.qu.sweepLoaded.isSome then a.qu.sweepCounted + 1 else a.qu.sweepCounted }
    grace := a.grace.map countTick }

/-- A timer has reached its limit. -/
def Timer.reached (t : Option Timer) : Bool := t.any (fun t => decide (t.limit ≤ t.count))

/-- R127: the sweep timer has counted its interval. -/
def sweepReached (a : Account) : Bool := a.qu.sweepLoaded.any (fun p => decide (60 * p ≤ a.qu.sweepCounted))

/-- An expiry is taken at a tick where its timer has reached its limit. -/
def State.expireIf (s : State) (reached : Account → Bool) (work : Account → Option Work) : State :=
  if reached s.acct then s.expire (work s.acct) else s

/-- The expiries of one scanner's hold timer. -/
def State.expireHold (s : State) (k : Scanner) : State :=
  s.expireIf (fun a => Timer.reached (a.xu[k]).hold) (holdWork k)

/-- The expiries of one exchange position's take or access timer. -/
def State.expireExchange (s : State) (k : Scanner) : State :=
  (s.expireIf (fun a => Timer.reached (a.xu[k]).timer) (takeWork k)).expireIf
    (fun a => Timer.reached (a.xu[k]).timer) (accessWork k)

/-- The expiry of one tool port's grace timer. -/
def State.expireGrace (s : State) (k : Scanner) : State :=
  s.expireIf (fun a => Timer.reached a.grace[k]) (graceWork k)

/-- The Time Base ticks: one second passes, and the timers that reach their limits expire in the order of log 7. -/
def State.tick (s : State) : State :=
  if s.power = .running then
    let s := s.onAcct tickAccount
    let s := scanners.foldl State.expireHold s
    let s := s.expireIf (fun a => Timer.reached a.du.watchdog) watchdogWork
    let s := scanners.foldl State.expireExchange s
    let s := scanners.foldl State.expireGrace s
    let s := s.expireIf (fun a => Timer.reached a.qu.watchdog) stationWork
    s.expireIf sweepReached sweepWork
  else s

end Sys2Proof.Machine
end

