-- ==== Sys2Proof/Machine/Dispatch.lean ====
section
/-! DEFINITION. The meaning of every command: one arm per constructor. -/

namespace Sys2Proof.Machine

/-- The effect of one command on everything but the queue of waiting commands. -/
def exec (i : Instr) (s : State) : Host.Outcome State Fault Refusal :=
  match i with
  | .query p m id => Sys2Proof.Machine.execQuery p m id s
  | .claim p m tag ids => Sys2Proof.Machine.execClaim p m tag ids s
  | .cancel p m tag => Sys2Proof.Machine.execCancel p m tag s
  | .taken p m id => Sys2Proof.Machine.execTaken p m id s
  | .release p m id => Sys2Proof.Machine.execRelease p m id s
  | .put p m id => Sys2Proof.Machine.execPut p m id s
  | .exposed p m id n => Sys2Proof.Machine.execExposed p m id n s
  | .toolStatus p m => Sys2Proof.Machine.execToolStatus p m s
  | .register p m id classCode expLimit ageLimit home => Sys2Proof.Machine.execRegister p m id classCode expLimit ageLimit home s
  | .retire p m id => Sys2Proof.Machine.execRetire p m id s
  | .holdTry p m id => Sys2Proof.Machine.execHoldTry p m id s
  | .holdWait p m id => Sys2Proof.Machine.execHoldWait p m id s
  | .unhold p m id => Sys2Proof.Machine.execUnhold p m id s
  | .rewrite p m id classCode expLimit ageLimit home expCount age => Sys2Proof.Machine.execRewrite p m id classCode expLimit ageLimit home expCount age s
  | .amend p m id classCode home expLimit ageLimit namesCounts => Sys2Proof.Machine.execAmend p m id classCode home expLimit ageLimit namesCounts s
  | .readRecord p m which => Sys2Proof.Machine.execReadRecord p m which s
  | .find p m start stateFilter classFilter => Sys2Proof.Machine.execFind p m start stateFilter classFilter s
  | .promote p m tool tag => Sys2Proof.Machine.execPromote p m tool tag s
  | .inspect p m id => Sys2Proof.Machine.execInspect p m id s
  | .relocate p m id dest => Sys2Proof.Machine.execRelocate p m id dest s
  | .audit p m first count => Sys2Proof.Machine.execAudit p m first count s
  | .resolve p m id place => Sys2Proof.Machine.execResolve p m id place s
  | .expunge p m id => Sys2Proof.Machine.execExpunge p m id s
  | .clearExchange p m position => Sys2Proof.Machine.execClearExchange p m position s
  | .closeRange p m range first count complement => Sys2Proof.Machine.execCloseRange p m range first count complement s
  | .openRange p m range => Sys2Proof.Machine.execOpenRange p m range s
  | .outtakeCleared p m => Sys2Proof.Machine.execOuttakeCleared p m s
  | .setTool p m tool enabled capacity => Sys2Proof.Machine.execSetTool p m tool enabled capacity s
  | .setTimers p m take hold watchdog grace station => Sys2Proof.Machine.execSetTimers p m take hold watchdog grace station s
  | .setDefaults p m expLimit ageLimit => Sys2Proof.Machine.execSetDefaults p m expLimit ageLimit s
  | .setReserve p m reserve => Sys2Proof.Machine.execSetReserve p m reserve s
  | .setSweep p m period mode => Sys2Proof.Machine.execSetSweep p m period mode s
  | .startSweep p m => Sys2Proof.Machine.execStartSweep p m s
  | .stopSweep p m => Sys2Proof.Machine.execStopSweep p m s
  | .pause p m => Sys2Proof.Machine.execPause p m s
  | .resume p m => Sys2Proof.Machine.execResume p m s
  | .clear p m => Sys2Proof.Machine.execClear p m s
  | .sync p m => Sys2Proof.Machine.execSync p m s
  | .format p m => Sys2Proof.Machine.execFormat p m s
  | .identify p m => Sys2Proof.Machine.execIdentify p m s
  | .take p m => Sys2Proof.Machine.execTake p m s
  | .picked p m move chars => Sys2Proof.Machine.execPicked p m move chars s
  | .placed p m move => Sys2Proof.Machine.execPlaced p m move s
  | .read p m move found => Sys2Proof.Machine.execRead p m move found s
  | .progress p m move => Sys2Proof.Machine.execProgress p m move s
  | .faultPickFailed p m move => Sys2Proof.Machine.execFaultPickFailed p m move s
  | .faultPlaceBlocked p m move => Sys2Proof.Machine.execFaultPlaceBlocked p m move s
  | .faultMechanical p m move => Sys2Proof.Machine.execFaultMechanical p m move s
  | .result p m chars verdict defect => Sys2Proof.Machine.execResult p m chars verdict defect s
  | .setFlags p m pv nv => Sys2Proof.Machine.execSetFlags p m pv nv s
  | .fetchNotice p m => Sys2Proof.Machine.execFetchNotice p m s
  | .clearSummary p m => Sys2Proof.Machine.execClearSummary p m s
  | .setAttention p m mode mask => Sys2Proof.Machine.execSetAttention p m mode mask s
  | .unlistedCodeRequest p m code => Sys2Proof.Machine.execUnlistedCodeRequest p m code s
  | .frameComplete p f => Sys2Proof.Machine.execFrameComplete p f s
  | .frameGapTimeout p => Sys2Proof.Machine.execFrameGapTimeout p s
  | .addressCharacter c => Sys2Proof.Machine.execAddressCharacter c s
  | .responseSent p => Sys2Proof.Machine.execResponseSent p s
  | .linkUp p => Sys2Proof.Machine.execLinkUp p s
  | .linkDown p => Sys2Proof.Machine.execLinkDown p s
  | .interlockAssertion k => Sys2Proof.Machine.execInterlockAssertion k s
  | .interlockClearing k => Sys2Proof.Machine.execInterlockClearing k s
  | .powerOnReset => Sys2Proof.Machine.execPowerOnReset s
  | .resetReleased straps => Sys2Proof.Machine.execResetReleased straps s
  | .reloadEnd => Sys2Proof.Machine.execReloadEnd s
  | .moveWatchdogExpiry => Sys2Proof.Machine.execMoveWatchdogExpiry s
  | .holdLimitExpiry k => Sys2Proof.Machine.execHoldLimitExpiry k s
  | .takeTimerExpiry k => Sys2Proof.Machine.execTakeTimerExpiry k s
  | .accessExpiry k => Sys2Proof.Machine.execAccessExpiry k s
  | .graceExpiry k => Sys2Proof.Machine.execGraceExpiry k s
  | .stationWatchdogExpiry => Sys2Proof.Machine.execStationWatchdogExpiry s
  | .sweepExpiry => Sys2Proof.Machine.execSweepExpiry s
  | .attentionPulseEnd p => Sys2Proof.Machine.execAttentionPulseEnd p s
  | .programComplete verified => Sys2Proof.Machine.execProgramComplete verified s
  | .characterReceived p c => Sys2Proof.Machine.execCharacterReceived p c s
  | .framingError p => Sys2Proof.Machine.execFramingError p s
  | .powerLoss => Sys2Proof.Machine.execPowerLoss s

end Sys2Proof.Machine
end

