-- ==== Sys2Proof/Machine/Layout.lean ====
section
/-! DEFINITION. The byte layouts masters see: the request frame, the response frame with its header, the notice
entry and the record summary (R186). The other payloads, named fields in the spec, are laid out with R186's field
encodings in the order their rules name them (log 14). -/

namespace Sys2Proof.Machine

/-- A bit at a place of a character. -/
def bitAt (b : Bool) (i : Nat) : Nat := if b then 2 ^ i else 0

/-! ### Frames -/

/-- R178, R186: a frame around its body: SYNC, LENGTH, the body and the CRC, low byte first. -/
def envelope (body : List Byte) : List Byte :=
  0x5A#8 :: BitVec.ofNat 8 body.length :: body ++ crcChars (BitVec.ofNat 8 body.length :: body)

/-- R186: the characters of a request frame. -/
def frameBytes (f : Frame) : List Byte := envelope (f.code :: f.modifier :: f.payload)

/-- R186: the summary character. -/
def summaryChar (c : ClassSet) : Nat := bitAt c.info 0 + bitAt c.attention 1 + bitAt c.fault 2

/-- R186: the response header, from CODE to the count. -/
def headerBytes (r : Response) : List Byte :=
  r.code :: enc1 (outcomeCode r.outcome)
    ++ enc1 (bitAt r.flagP 0 + bitAt r.flagN 1 + bitAt r.test 2) ++ enc1 (summaryChar r.summary) ++ enc3 r.count

/-- R186: the characters of a response frame with the characters of its payload. -/
def responseBytes (r : Response) (payload : List Byte) : List Byte := envelope (headerBytes r ++ payload)

/-! ### The record summary -/

/-- R186: held in two bits. -/
def heldCode : Held → Nat
  | .none => 0 | .held => 1 | .holdPending => 2

/-- R186: the retention status. -/
def retentionCode : Retention → Nat
  | .clean => 0 | .queued => 1 | .unretained => 2

/-- R186: the last inspection; 0 when absent. -/
def inspectionChar : Option Inspection → Nat
  | none => 0
  | some i => 128 + bitAt (decide (i.verdict = .fail)) 6 + i.defect % 16

/-- R186: the attribute character of the summary. -/
def attributeChar (r : RecordSummary) : Nat :=
  bitAt r.due 0 + bitAt r.rejected 1 + bitAt r.retirePending 2 + bitAt r.returnRequested 3 + bitAt r.expDefault 4
    + bitAt r.ageDefault 5 + 64 * heldCode r.held

/-- R186: the record summary. -/
def recordSummaryBytes (r : RecordSummary) : List Byte :=
  enc2 r.number ++ r.ident ++ enc2 r.classCode ++ enc1 (custodyCode r.custody) ++ encPlace r.place
    ++ encPlace r.lastKnown ++ encSmall (r.holder.map (·.val)) ++ encSlot r.home ++ enc3 r.expCount ++ enc3 r.expLimit
    ++ enc3 r.age ++ enc3 r.ageLimit ++ enc1 (attributeChar r) ++ enc1 (inspectionChar r.lastInspection)
    ++ enc1 r.queueDepth ++ enc1 (retentionCode r.retention)

/-! ### The notice entry -/

/-- R189: the kind code of a notice on a port. -/
def noticeKind (p : Port) : Notice → Nat
  | .granted .. => 0x01
  | .presented .. => 0x02
  | .recalled .. => 0x03
  | .access .. => 0x04
  | .accessWithdrawn .. => 0x05
  | .returned .. => 0x06
  | .claimEnded .. => 0x07
  | .limitReached .. => if p = .sup then 0x27 else 0x08
  | .due .. => if p = .sup then 0x26 else 0x09
  | .unverified .. => 0x20
  | .blocked .. => 0x21
  | .phaseError .. => 0x22
  | .inspection .. => 0x23
  | .gate .. => 0x24
  | .sweepDone .. => 0x25
  | .retention .. => 0x28
  | .reloadDone .. => 0x29
  | .link .. => 0x2A
  | .retired .. => 0x2B
  | .dispatchFaulted .. => 0x2C
  | .moveStaged .. => 0x40
  | .withdrawn .. => 0x41
  | .proceed .. => 0x42
  | .redirect .. => 0x43
  | .inspectPod .. => 0x50
  | .inspectAbandoned .. => 0x51

/-- R186: the class of a notice. -/
def classCodeOf : NoticeClass → Nat
  | .info => 0 | .attention => 1 | .fault => 2

/-- R131: the limit a DUE notice reports. -/
def limitCode : LimitReached → Nat
  | .age => 0 | .exposure => 1 | .both => 2 | .inspect => 3

/-- R137, R140: what an INSPECTION notice reports (log 15). -/
def inspectionEndCode : InspectionEnd → Nat
  | .pass => 0 | .fail => 1 | .abandoned => 2

/-- R177, R155: what a LINK notice reports (log 15). -/
def linkChangeCode : LinkChange → Nat
  | .up => 0 | .down => 1 | .graceExpired => 2

/-- R85: the phases, in that rule's order. -/
def phaseCode : Phase → Nat
  | .empty => 0 | .occupied => 1 | .doubtful => 2

/-- R85: the reports a PHASE_ERROR names. -/
def reportCode : ScannerReport → Nat
  | .taken => 0 | .put => 1

/-- R167, R168: the subject of a RETENTION notice (log 15). -/
def retentionSubject : RetentionNote → List Byte
  | .clean => enc1 0
  | .remapped page free => enc1 1 ++ enc2 (pageCode page) ++ enc3 free
  | .sparesExhausted page owed => enc1 2 ++ (page.map (fun p => enc2 (pageCode p))).getD [] ++ enc3 owed

/-- R137, R140: the subject of an INSPECTION notice; an abandoned one names the verdict first. The defect class has one
character: R186 lists no such field (DESIGN CHOICE, log 15). -/
def inspectionSubject (id : Ident) (r : Nat) (verdict : InspectionEnd) (defect ended : Option Nat) : List Byte :=
  match verdict with
  | .abandoned => enc1 (inspectionEndCode verdict) ++ id ++ enc2 r
  | _ => id ++ enc2 r ++ enc1 (inspectionEndCode verdict) ++ (defect.map enc1).getD [] ++ (ended.map enc3).getD []

/-- R189: the subject fields of a notice, in the order its sending rule names them. The cause of a DISPATCH_FAULTED,
MECHANICAL or WATCHDOG, is encoded by its place in R146's table, 3 or 4: the spec gives the two no list of their own
(DESIGN CHOICE, log 15). So is an UNVERIFIED notice's cause, that of a VERIFY read too, which R122 lists among three
(DESIGN CHOICE, log 51). The last inspection of an INSPECT notice has the character it has in R186's record summary
(DESIGN CHOICE, log 15), and a LINK notice carries its port at every change (DESIGN CHOICE, log 15). -/
def noticeSubject : Notice → List Byte
  | .granted tag members => enc1 tag ++ enc3 members
  | .presented id tag move untaken => id ++ enc1 tag ++ enc1 move ++ enc3 untaken
  | .recalled id tag cause => id ++ enc1 tag ++ enc1 (endCauseCode cause)
  | .access id listed => id ++ enc3 listed
  | .accessWithdrawn listed => enc3 listed
  | .returned id => id
  | .claimEnded tag cause taken => enc1 tag ++ enc1 (endCauseCode cause) ++ enc3 taken
  | .limitReached id r count limit => id ++ enc2 r ++ enc3 count ++ enc3 limit
  | .due id r custody limit age count =>
    id ++ enc2 r ++ enc1 (custodyCode custody) ++ enc1 (limitCode limit) ++ enc3 age ++ enc3 count
  | .unverified id r cause concerned lastKnown move =>
    id ++ enc2 r ++ enc1 (doubtCauseCode cause) ++ encPlace (some concerned) ++ encPlace lastKnown ++ encSmall move
  | .blocked move kind id place slot =>
    enc1 move ++ enc1 (moveKindCode kind) ++ id.getD [] ++ encPlace (some place) ++ encSlot slot
  | .phaseError k report id position phase =>
    enc1 k.val ++ enc1 (reportCode report) ++ id ++ enc1 (positionCode position) ++ enc1 (phaseCode phase)
  | .inspection id r verdict defect ended => inspectionSubject id r verdict defect ended
  | .gate isOpen free reserve => enc1 (if isOpen then 0 else 1) ++ enc3 free ++ enc1 reserve
  | .sweepDone aged madeDue period => enc3 aged ++ enc3 madeDue ++ enc2 period
  | .retention note => retentionSubject note
  | .reloadDone settled unverified unreadable => enc3 settled ++ enc3 unverified ++ enc3 unreadable
  | .link port change => enc1 (portCode port) ++ enc1 (linkChangeCode change)
  | .retired id r => id ++ enc2 r
  | .dispatchFaulted move cause => enc1 move ++ enc1 (doubtCauseCode cause)
  | .moveStaged move kind id source dest =>
    enc1 move ++ enc1 (moveKindCode kind) ++ id.getD [] ++ encPlace (some source) ++ encPlace dest
  | .withdrawn move => enc1 move
  | .proceed move => enc1 move
  | .redirect move slot => enc1 move ++ enc2 slot
  | .inspectPod id r cls count age expLimit ageLimit last move =>
    id ++ enc2 r ++ enc2 cls ++ enc3 count ++ enc3 age ++ enc3 expLimit ++ enc3 ageLimit
      ++ enc1 (inspectionChar last) ++ enc1 move
  | .inspectAbandoned id r => id ++ enc2 r

/-- R186: the notice entry. -/
def noticeBytes (p : Port) (n : Notice) : List Byte :=
  enc1 (noticeKind p n) ++ enc1 (classCodeOf n.cls) ++ enc1 (noticeSubject n).length ++ noticeSubject n

/-- R190: the payload of a FETCH_NOTICE response: the overflow character, and the entry removed. -/
def noticePayload (p : Port) (overflow : Bool) (entry : Option Notice) : List Byte :=
  enc1 (bitAt overflow 0) ++ (entry.map (noticeBytes p)).getD []

/-! ### The payloads the spec names by their fields (log 14) -/

/-- A choice between yes and no (log 13). -/
def encYesNo (b : Bool) : List Byte := enc1 (if b then 0 else 1)

/-- R28: the priorities, in that rule's order. -/
def priorityCode : Priority → Nat
  | .normal => 0 | .hot => 1

/-- R53: one entry of the queue QUERY returns. -/
def queueEntryBytes (e : QueueEntry) : List Byte := enc1 e.tool.val ++ enc1 (priorityCode e.priority) ++ encSmall e.tag

/-- R104: what TOOL_STATUS tells of a position by its state. -/
def detailBytes : PositionDetail → List Byte
  | .nothing => []
  | .presented tag seconds => encSmall tag ++ enc2 seconds
  | .opened seconds => enc2 seconds
  | .move number => encSmall number

/-- R104. The interlock level is sent asserted 0, clear 1: the spec lists no codes of the two levels (DESIGN CHOICE,
log 14). -/
def toolStatusBytes (t : ToolStatus) : List Byte :=
  enc1 (positionCode t.position) ++ enc1 (phaseCode t.phase) ++ t.ident.getD [] ++ detailBytes t.detail
    ++ encYesNo t.lapse ++ t.returnList.flatten ++ encYesNo t.interlock ++ encYesNo t.holdRunning
    ++ encYesNo t.enabled ++ enc1 t.capacity ++ enc3 t.load ++ enc3 t.openClaims

/-- R24. -/
def foundBytes (hits : List (Ident × Nat)) (resume : Option Nat) : List Byte :=
  (hits.map (fun q => q.1 ++ enc2 q.2)).flatten ++ enc2 (resume.getD 0xFFFF)

/-- R119. -/
def auditBytes (resume : Option Nat) (passed : Nat) (c : SlotCounts) : List Byte :=
  encSlot resume ++ enc3 passed ++ enc3 c.empty ++ enc3 c.occupied ++ enc3 c.expected ++ enc3 c.unknown
    ++ enc3 c.foreign

/-- R78: the dispatch states, in the order of that section's table. -/
def dispatchCode : DispatchState → Nat
  | .running => 0 | .paused => 1 | .faulted => 2

/-- R166: the programming states, in the order of that rule's table. -/
def programmingCode : ProgrammingState → Nat
  | .idle => 0 | .programming => 1 | .programmingStaged => 2 | .reloading => 3

/-- R177: a link state. -/
def linkCode (up : Bool) : Nat := if up then 0 else 1

/-- R184: the link states, the ports in the order of their codes. -/
def linksBytes (links : PortMap Bool) : List Byte :=
  (links.tools.toList ++ [links.sup, links.hdl, links.ins]).flatMap (fun up => enc1 (linkCode up))

/-- R184. -/
def identificationBytes (i : Identification) : List Byte :=
  enc2 i.partCode ++ [i.revision] ++ enc1 i.station.toNat ++ linksBytes i.links ++ enc1 (dispatchCode i.dispatch)
    ++ enc1 (programmingCode i.programming) ++ encYesNo i.mark ++ enc3 i.recordsInUse

/-- 00_scope: the answers, in the order they are listed there, each with its slot or place. -/
def answerBytes : Answer → List Byte
  | .proceed => enc1 0
  | .wait => enc1 1
  | .redirect slot => enc1 2 ++ encSlot (some slot)
  | .returnToSource place => enc1 3 ++ encPlace (some place)

/-- R186: the payload characters of a response. -/
def payloadBytes (p : Port) : Payload → List Byte
  | .nothing => []
  | .summary r => recordSummaryBytes r
  | .query r entries => recordSummaryBytes r ++ entries.flatMap queueEntryBytes
  | .toolStatus t => toolStatusBytes t
  | .found hits resume => foundBytes hits resume
  | .audit resume passed counts => auditBytes resume passed counts
  | .identification i => identificationBytes i
  | .takenMove number kind id source dest => noticeSubject (.moveStaged number kind id source dest)
  | .answer a => answerBytes a
  | .notice overflow entry => noticePayload p overflow entry

/-- R186: the characters the part transmits for a response. -/
def transmitted (p : Port) (r : Response) : List Byte := responseBytes r (payloadBytes p r.payload)

end Sys2Proof.Machine
end

