-- ==== Sys2Proof/Machine/Pins.lean ====
section
/-! DEFINITION. The output pins, each a function of the state (R175, R187, R192, section 9.8): the transmit lines, the
supervisor direction control SDIR, the attention outputs and INTAKE_OK. A level is true where the line is high; mark
is high. -/

namespace Sys2Proof.Machine

/-- R175: the levels of one character on a link: the start bit at space, eight data bits least significant first, on
the supervisor line the ninth bit clear, and the stop bit at mark. -/
def characterLevels (p : Port) (c : Byte) : List Bool :=
  false :: (List.range 8).map (fun i => c.getLsbD i) ++ (if p = .sup then [false] else []) ++ [true]

namespace State

/-- R175, R179: the characters a port is sending: those of the response it is answering with, without gaps, and none
between responses. -/
def sending (s : State) (p : Port) : List Byte :=
  match (s.io p).answering with
  | some r => transmitted p r
  | none => []

/-- R175: the levels a transmit line passes through for the response being sent. -/
def txLevels (s : State) (p : Port) : List Bool := (s.sending p).flatMap (characterLevels p)

/-- R175, R187: a transmit line rests at mark: no response is being sent on it. -/
def txAtMark (s : State) (p : Port) : Bool := (s.io p).answering.isNone

/-- R175: SDIR, active (high) from the first start bit to the last stop bit of a response on the supervisor line. -/
def sdir (s : State) : Bool := (s.io .sup).answering.isSome

/-- R192, section 9.8: the level of an attention output: low when asserted, released otherwise. -/
def attentionLevel (s : State) (p : Port) : Bool := !(s.acct.notices.get p).asserted

/-- R116, section 9.8: INTAKE_OK, high while the intake gate is open. -/
def intakeOk (s : State) : Bool := s.acct.sm.gateOpen

/-- R187: every output at its power-on value: the transmit lines at mark, SDIR inactive, the attention outputs
released, INTAKE_OK low. -/
def OutputsAtPowerOn (s : State) : Prop :=
  s.sdir = false ∧ s.intakeOk = false ∧ ∀ p : Port, s.txAtMark p = true ∧ s.attentionLevel p = true

end State

end Sys2Proof.Machine
end

