-- ==== Sys2Proof/Safety.lean ====
section
/-! DEFINITION. What every step keeps: the notice queues hold at most their eight entries (R188), the ports that
hold no condition flags show none (R181), no identity is carried by two records in use (R2), and the numbers in every
table rise strictly. And the words the statements are made of: when a request runs, what its answer shows, and what
the end of an event may still change after a command's own effect. -/

namespace Sys2Proof.Machine

/-- R188: no notice queue holds more than 8 entries. -/
def NoticesBounded (a : Account) : Prop := ∀ p : Port, (a.notices.get p).queue.length ≤ Config.noticeRoom

/-- The numbered tables of the account list their numbers strictly rising. -/
def Account.Canonical (a : Account) : Prop :=
  Table.sorted a.records = true ∧ Table.sorted a.claims = true ∧ Table.sorted a.sm.slots = true

/-- The tables of the Retention Store list their numbers strictly rising. -/
def RetentionStore.Canonical (st : RetentionStore) : Prop :=
  Table.sorted st.recordPages = true ∧ Table.sorted st.sparePages = true ∧ Table.sorted st.spareMap = true

/-- R181: the handler and inspection ports hold no condition flags; theirs read 0. -/
def FlaglessPorts (s : State) : Prop :=
  ∀ p : Port, holdsFlags p = false → (s.io p).flagP = false ∧ (s.io p).flagN = false

/-- R2: no two records in use carry one identity. -/
def DistinctIdents (a : Account) : Prop := (a.records.map (·.2.ident)).Nodup

/-- What every step keeps. -/
def State.Sound (s : State) : Prop :=
  NoticesBounded s.acct ∧ s.acct.Canonical ∧ s.store.Canonical ∧ FlaglessPorts s ∧ DistinctIdents s.acct

/-- The states the part can come to: from reset, whatever commands are put in its queue, by steps. -/
inductive Reachable : State → Prop
  | reset : Reachable .reset
  | commanded (s : State) (l : List Instr) : Reachable s → Reachable { s with pending := s.pending ++ l }
  | stepped (s t : State) : Reachable s → step s = .next t → Reachable t

/-- R108, R109: a slot is OCCUPIED by a record exactly when it is that record's place. -/
def SlotsAgree (a : Account) : Prop :=
  ∀ n r, a.slot n = .occupied r ↔ ∃ x, a.record r = some x ∧ x.place = some (.slot n)

/-! ### Requests and answers (R179 to R182) -/

/-- The port, the MODIFIER and the code character of a request; none for any other command. -/
def requestOf : Instr → Option (Port × Byte × Byte)
  | .query p m _ => some (p, m, Code.query.byte)
  | .claim p m _ _ => some (p, m, Code.claim.byte)
  | .cancel p m _ => some (p, m, Code.cancel.byte)
  | .taken p m _ => some (p, m, Code.taken.byte)
  | .release p m _ => some (p, m, Code.release.byte)
  | .put p m _ => some (p, m, Code.put.byte)
  | .exposed p m _ _ => some (p, m, Code.exposed.byte)
  | .toolStatus p m => some (p, m, Code.toolStatus.byte)
  | .register p m _ _ _ _ _ => some (p, m, Code.register.byte)
  | .retire p m _ => some (p, m, Code.retire.byte)
  | .holdTry p m _ => some (p, m, Code.hold.byte)
  | .holdWait p m _ => some (p, m, Code.hold.byte)
  | .unhold p m _ => some (p, m, Code.unhold.byte)
  | .rewrite p m _ _ _ _ _ _ _ => some (p, m, Code.rewrite.byte)
  | .amend p m _ _ _ _ _ _ => some (p, m, Code.amend.byte)
  | .readRecord p m _ => some (p, m, Code.readRecord.byte)
  | .find p m _ _ _ => some (p, m, Code.find.byte)
  | .promote p m _ _ => some (p, m, Code.promote.byte)
  | .inspect p m _ => some (p, m, Code.inspect.byte)
  | .relocate p m _ _ => some (p, m, Code.relocate.byte)
  | .audit p m _ _ => some (p, m, Code.audit.byte)
  | .resolve p m _ _ => some (p, m, Code.resolve.byte)
  | .expunge p m _ => some (p, m, Code.expunge.byte)
  | .clearExchange p m _ => some (p, m, Code.clearExchange.byte)
  | .closeRange p m _ _ _ _ => some (p, m, Code.closeRange.byte)
  | .openRange p m _ => some (p, m, Code.openRange.byte)
  | .outtakeCleared p m => some (p, m, Code.outtakeCleared.byte)
  | .setTool p m _ _ _ => some (p, m, Code.setTool.byte)
  | .setTimers p m _ _ _ _ _ => some (p, m, Code.setTimers.byte)
  | .setDefaults p m _ _ => some (p, m, Code.setDefaults.byte)
  | .setReserve p m _ => some (p, m, Code.setReserve.byte)
  | .setSweep p m _ _ => some (p, m, Code.setSweep.byte)
  | .startSweep p m => some (p, m, Code.startSweep.byte)
  | .stopSweep p m => some (p, m, Code.stopSweep.byte)
  | .pause p m => some (p, m, Code.pause.byte)
  | .resume p m => some (p, m, Code.resume.byte)
  | .clear p m => some (p, m, Code.clear.byte)
  | .sync p m => some (p, m, Code.sync.byte)
  | .format p m => some (p, m, Code.format.byte)
  | .identify p m => some (p, m, Code.identify.byte)
  | .take p m => some (p, m, Code.take.byte)
  | .picked p m _ _ => some (p, m, Code.picked.byte)
  | .placed p m _ => some (p, m, Code.placed.byte)
  | .read p m _ _ => some (p, m, Code.read.byte)
  | .progress p m _ => some (p, m, Code.progress.byte)
  | .faultPickFailed p m _ => some (p, m, Code.fault.byte)
  | .faultPlaceBlocked p m _ => some (p, m, Code.fault.byte)
  | .faultMechanical p m _ => some (p, m, Code.fault.byte)
  | .result p m _ _ _ => some (p, m, Code.result.byte)
  | .setFlags p m _ _ => some (p, m, Code.setFlags.byte)
  | .fetchNotice p m => some (p, m, Code.fetchNotice.byte)
  | .clearSummary p m => some (p, m, Code.clearSummary.byte)
  | .setAttention p m _ _ => some (p, m, Code.setAttention.byte)
  | .unlistedCodeRequest p m code => if (codeOf code).isNone then some (p, m, code) else none
  | _ => none

/-- R180: a request passes steps 1 to 5 and comes to its own rule. -/
def Runs (s : State) (p : Port) (m : Byte) (c : Code) : Prop :=
  s.power = .running ∧ modifierOk p m = true ∧ permitted c p = true
    ∧ guardTrue m (s.io p).flagP (s.io p).flagN = true

/-- R179, R180: from `s` the part has come to answer, on port `p`, with this outcome, flags, test, count and
payload and the port's summary as it now stands; the rest of the links is as it was, and so are the power and the
queue of waiting commands. -/
def Answered (s t : State) (p : Port) (code : Byte) (o : Outcome) (flagP flagN test : Bool) (count : Nat)
    (payload : Payload) : Prop :=
  t.io p =
      { s.io p with
        flagP := flagP, flagN := flagN
        answering := some
          { code := code, outcome := o, flagP := flagP, flagN := flagN, test := test,
            summary := (t.acct.notices.get p).summary, count := count, payload := payload } }
    ∧ (∀ q, q ≠ p → t.io q = s.io q)
    ∧ t.links.station = s.links.station ∧ t.links.addressed = s.links.addressed
    ∧ t.pending = s.pending ∧ t.power = s.power

/-- R180, R181: an answer DONE, with the MODIFIER's effect on the port's flags. -/
def Done (s t : State) (p : Port) (m : Byte) (c : Code) (r : Reply) : Prop :=
  Answered s t p c.byte .done (effectP m (s.io p).flagP r.test) (effectN m (s.io p).flagN r.count) r.test r.count
    r.payload

/-- Nothing but the links has changed. -/
def OnlyAnswered (s t : State) : Prop := t.acct = s.acct ∧ t.store = s.store ∧ t.freeIndex = s.freeIndex

/-! ### The end of an event -/

/-- A record but for its retention status (R12). -/
def Record.aside (x : Record) : Record := { x with retention := .clean }

/-- What a STORED record keeps when it is allotted (R38). -/
def Record.rest (x : Record) : Record :=
  { x with custody := .stored, holder := none, claimQueue := [], retention := .clean }

/-- What a claim keeps when it is granted or held for room (R36, R38). -/
def Claim.terms (c : Claim) : Claim := { c with state := .waiting, heldForRoom := false }

/-- What the end of an event may still change of the account `a` its command's own effect leaves (R37, R38, R59,
R61 to R63, R71, R86, R116, R132, R133): STORED records are allotted, WAITING claims granted, moves queued and
staged, EMPTY places marked, records routed, the gate judged and notices entered. Everything named here stays. -/
structure Follows (a b : Account) : Prop where
  record : ∀ r x, a.record r = some x →
    ∃ y, b.record r = some y ∧ (x.custody ≠ .stored → y.aside = x.aside) ∧ y.rest = x.rest
      ∧ (x.custody = .stored → y.custody = .stored ∧ y.holder = x.holder ∨ y.custody = .allotted)
      ∧ y.claimQueue.Sublist x.claimQueue
  noRecord : ∀ r, a.record r = none → b.record r = none
  claim : ∀ c x, Table.lookup a.claims c = some x →
    ∃ y, Table.lookup b.claims c = some y ∧ (x.state = .granted → y.state = .granted) ∧ y.terms = x.terms
  noClaim : ∀ c, Table.lookup a.claims c = none → Table.lookup b.claims c = none
  nextOrder : b.nextOrder = a.nextOrder
  dispatch : b.du.state = a.du.state
  staged : ∀ m, a.du.staged = some m → b.du.staged = some m
  idle : a.du.state ≠ .running → b.du.staged = a.du.staged
  taken : b.du.taken = a.du.taken ∧ b.du.watchdog = a.du.watchdog
    ∨ ∃ m n, a.du.taken = some m ∧ m.state = .holding .noSlot
        ∧ b.du.taken = some { m with dest := .at (.slot n), state := .carrying } ∧ b.slot n = .expected m.number
  slot : ∀ n, b.slot n = a.slot n ∨ a.slot n = .empty ∧ ∃ mv, b.slot n = .expected mv
  intake : b.sm.intake = a.sm.intake
  outtake : b.sm.outtakeOccupied = a.sm.outtakeOccupied
  exchange : ∀ k : Scanner, b.xu[k] = a.xu[k]
    ∨ (a.xu[k]).position = .empty ∧ b.xu[k] = { a.xu[k] with position := .incoming, lapse := false }
  station : b.qu.station = a.qu.station ∨ a.qu.station = .empty ∧ b.qu.station = .expected
  stationWatchdog : b.qu.watchdog = a.qu.watchdog
  abandoned : b.qu.abandoned = a.qu.abandoned
  sweepLoaded : b.qu.sweepLoaded = a.qu.sweepLoaded
  sweepCounted : b.qu.sweepCounted = a.qu.sweepCounted
  settings : b.settings = a.settings
  up : b.up = a.up
  everUp : b.everUp = a.everUp
  grace : b.grace = a.grace
  notices : ∀ p : Port, (a.notices.get p).queue <+: (b.notices.get p).queue
  mode : ∀ p : Port, (b.notices.get p).mode = (a.notices.get p).mode
  mask : ∀ p : Port, (b.notices.get p).mask = (a.notices.get p).mask

/-- R165, R166: handing pages over leaves the array, the spares, the debts and the clean mark as they stand. -/
structure ArrayKept (a b : RetentionStore) : Prop where
  headerPage : b.headerPage = a.headerPage
  recordPages : b.recordPages = a.recordPages
  sparePages : b.sparePages = a.sparePages
  spareMap : b.spareMap = a.spareMap
  owed : b.owed = a.owed
  mark : b.mark = a.mark
  syncRequest : b.syncRequest = a.syncRequest
  format : b.format = a.format

/-- R12, R165: a page waits in the write-back queue, or is being programmed. -/
def Awaits (t : State) (p : PageId) : Prop :=
  p ∈ t.store.queue ∨ ∃ pr, t.store.inFlight = some pr ∧ pr.purpose = .page p

/-- A command's own effect has left the account `a` and handed over `pages`, and its event has ended in `t`. -/
structure Ends (s : State) (a : Account) (pages : List PageId) (t : State) : Prop where
  account : Follows a t.acct
  array : ArrayKept s.store t.store
  pages : ∀ p ∈ pages, Awaits t p
  freeIndex : t.freeIndex = s.freeIndex
  pending : t.pending = s.pending
  power : t.power = s.power

/-! ### Frames -/

/-- The identity is permitted, and the index names a record in use by it (R2). -/
def Names (s : State) (id : Ident) (r : Nat) (x : Record) : Prop :=
  identOk id = true ∧ s.acct.findIdent id = some (r, x) ∧ s.acct.record r = some x

/-- A record that a command does not act on: its attributes and counts stay, and its custody and holder unless it
is STORED and is allotted at the event's end. -/
def KeepsRecord (x y : Record) : Prop :=
  y.rest = x.rest ∧ (x.custody ≠ .stored → y.custody = x.custody ∧ y.holder = x.holder)
    ∧ (x.custody = .stored → y.custody = .stored ∧ y.holder = x.holder ∨ y.custody = .allotted)

/-- No record but those named changes, beyond what an event's end gives. -/
def OthersKept (s t : State) (acted : List Nat) : Prop :=
  ∀ q x, q ∉ acted → s.acct.record q = some x → ∃ y, t.acct.record q = some y ∧ KeepsRecord x y

/-- What no event of the moves, the pods and the claims changes: the settings, the links, the grace timers, the
sequence of acceptances, the interlock levels, the attention settings, and the array. -/
structure Framed (s t : State) : Prop where
  settings : t.acct.settings = s.acct.settings
  up : t.acct.up = s.acct.up
  everUp : t.acct.everUp = s.acct.everUp
  grace : t.acct.grace = s.acct.grace
  nextOrder : t.acct.nextOrder = s.acct.nextOrder
  interlock : ∀ k : Scanner, (t.acct.xu[k]).interlock = (s.acct.xu[k]).interlock
  mode : ∀ p : Port, (t.acct.notices.get p).mode = (s.acct.notices.get p).mode
  mask : ∀ p : Port, (t.acct.notices.get p).mask = (s.acct.notices.get p).mask
  array : ArrayKept s.store t.store

/-- R188: the first notices the event has sent to a port are these, in this order; those that found the queue full
are discarded. -/
def Tells (s t : State) (p : Port) (l : List Notice) : Prop :=
  (l.foldl NoticeState.enter (s.acct.notices.get p)).queue <+: (t.acct.notices.get p).queue

/-- R94: exchange position k has been left: OPEN, its access timer started, where returns are listed, the interlock is
clear and access has not lapsed; otherwise EMPTY, or INCOMING where a FETCH was staged to it at the event's end. -/
def PositionLeft (s t : State) (k : Scanner) : Prop :=
  if (s.acct.xu[k]).returnList ≠ [] ∧ (s.acct.xu[k]).interlock = false ∧ (s.acct.xu[k]).lapse = false then
    (t.acct.xu[k]).position = .opened ∧ (t.acct.xu[k]).timer = some { count := 0, limit := s.acct.settings.takeLimit }
  else ((t.acct.xu[k]).position = .empty ∨ (t.acct.xu[k]).position = .incoming) ∧ (t.acct.xu[k]).timer = none

/-- R10: record `x` has entered STORED with holder absent: at the event's end, as `y`, it is OUTBOUND where it was
retire pending, and otherwise STORED, or ALLOTTED by a grant of the same event; a pending hold holds it. -/
def EntersStored (x y : Record) : Prop :=
  y.held = (if x.held = .holdPending then Held.held else x.held) ∧ y.retirePending = false
    ∧ (x.retirePending = true → y.custody = .outbound ∧ y.holder = none)
    ∧ (x.retirePending = false → y.custody = .stored ∧ y.holder = none ∨ y.custody = .allotted)

/-- R57: no QUEUED or STAGED move bears the taken move's number. -/
def OwnNumber (s : State) (move : Nat) : Prop :=
  ∀ m ∈ s.acct.du.staged.toList ++ s.acct.du.queue, m.number ≠ move

/-- R71: the taken move has been redirected: it carries its pod to a slot chosen for it, or it is HOLDING for want of
one, its watchdog stopped. -/
def Redirected (t : State) (move : Nat) : Prop :=
  ∃ z, t.acct.du.taken = some z ∧ z.number = move
    ∧ ((∃ d, z.dest = .at (.slot d) ∧ z.state = .carrying ∧ t.acct.slot d = .expected move)
      ∨ z.dest = .choose ∧ z.state = .holding .noSlot ∧ t.acct.du.watchdog = none)

/-- R30: every claim a record's queue refers to is WAITING. -/
def QueueWaiting (a : Account) (x : Record) : Prop :=
  ∀ c ∈ x.claimQueue, ∀ y, Table.lookup a.claims c = some y → y.state = .waiting

/-! ### Values the statements speak of -/

/-- The value SET_FLAGS gives a flag: 0, 1, or 2 for KEEP (R183; the code of KEEP is the model's choice, log 13). -/
def flagGiven (v : Nat) (old : Bool) : Bool := if v = 0 then false else if v = 1 then true else old

/-- The record with due set where a limit has been reached, by the settings in force (R5). -/
def compared (t : Settings) (x : Record) : Record :=
  { x with
    due := x.due || decide (x.expLimit.getD t.defaultExpLimit ≤ x.expCount)
      || decide (x.ageLimit.getD t.defaultAgeLimit ≤ x.age) }

/-- The taken move the handler reports on. -/
def Reports (s : State) (move : Nat) (mv : Move) : Prop :=
  move < 64 ∧ s.acct.du.taken = some mv ∧ mv.number = move

end Sys2Proof.Machine
end

