-- ==== Sys2Proof/WellFormed.lean ====
section
/-! DEFINITION. Which commands can reach the part: a request whose fields fit the characters R186 gives them, a
frame that fits an envelope, a code outside the catalogue where the command says so. -/

namespace Sys2Proof

/-- A field of one character. -/
def fits1 (n : Nat) : Bool := decide (n < 256)
/-- A field of two characters. -/
def fits2 (n : Nat) : Bool := decide (n < 65536)
/-- A field of three characters. -/
def fits3 (n : Nat) : Bool := decide (n < 16777216)

/-- An identity field has 12 characters, permitted or not (R186). -/
def identFits (id : Ident) : Bool := decide (id.length = 12)
/-- A reported identity has 24 characters (R186). -/
def reportFits (chars : List Byte) : Bool := decide (chars.length = 24)
/-- The identities of one CLAIM fit a payload of 248 characters (R178). -/
def listFits (ids : List Ident) : Bool := decide (ids.length ≤ 20) && ids.all identFits

/-- A record named by identity or by number. -/
def refFits : RecordRef → Bool
  | .byIdent id => identFits id
  | .byNumber n => fits2 n

/-- A value AMEND gives. -/
def changeFits (fits : Nat → Bool) : FieldChange → Bool
  | .assign v => fits v
  | _ => true

/-- What READ reports. -/
def foundFits : ReadReport → Bool
  | .ident chars => reportFits chars
  | _ => true

/-- A frame's CODE, MODIFIER and payload fit a LENGTH of 2 to 250 (R178). -/
def frameFits (f : Frame) : Bool := decide (f.payload.length ≤ 248)

/-- A command that can reach the part. -/
def Instr.wellFormed : Instr → Bool
  | .query _ _ id => identFits id
  | .claim _ _ tag ids => fits1 tag && listFits ids
  | .cancel _ _ tag => fits1 tag
  | .taken _ _ id => identFits id
  | .release _ _ id => identFits id
  | .put _ _ id => identFits id
  | .exposed _ _ id n => identFits id && fits2 n
  | .register _ _ id cls e g h => identFits id && fits2 cls && e.all fits3 && g.all fits3 && h.all fits2
  | .retire _ _ id => identFits id
  | .holdTry _ _ id => identFits id
  | .holdWait _ _ id => identFits id
  | .unhold _ _ id => identFits id
  | .rewrite _ _ id cls e g h c a =>
    identFits id && fits2 cls && e.all fits3 && g.all fits3 && h.all fits2 && c.all fits3 && a.all fits3
  | .amend _ _ id cls h e g _ =>
    identFits id && changeFits fits2 cls && changeFits fits2 h && changeFits fits3 e && changeFits fits3 g
  | .readRecord _ _ which => refFits which
  | .find _ _ start st cls => fits2 start && fits1 st && cls.all fits2
  | .promote _ _ tool tag => fits1 tool && fits1 tag
  | .inspect _ _ id => identFits id
  | .relocate _ _ id dest => identFits id && dest.all fits2
  | .audit _ _ first count => fits2 first && fits3 count
  | .resolve _ _ id place => identFits id && fits2 place
  | .expunge _ _ id => identFits id
  | .clearExchange _ _ n => fits1 n
  | .closeRange _ _ range first count complement => fits1 range && fits2 first && fits3 count && fits1 complement
  | .openRange _ _ range => fits1 range
  | .setTool _ _ tool e c => fits1 tool && e.all fits1 && c.all fits1
  | .setTimers _ _ a b c d e => a.all fits2 && b.all fits2 && c.all fits2 && d.all fits2 && e.all fits2
  | .setDefaults _ _ e g => e.all fits3 && g.all fits3
  | .setReserve _ _ n => fits1 n
  | .setSweep _ _ period mode => period.all fits2 && mode.all fits1
  | .picked _ _ move chars => fits1 move && reportFits chars
  | .placed _ _ move => fits1 move
  | .read _ _ move found => fits1 move && foundFits found
  | .progress _ _ move => fits1 move
  | .faultPickFailed _ _ move => fits1 move
  | .faultPlaceBlocked _ _ move => fits1 move
  | .faultMechanical _ _ move => fits1 move
  | .result _ _ chars v d => reportFits chars && fits1 v && fits1 d
  | .setFlags _ _ pv nv => fits1 pv && fits1 nv
  | .setAttention _ _ mode mask => fits1 mode && fits1 mask
  | .unlistedCodeRequest _ _ code => (Machine.codeOf code).isNone
  | .frameComplete _ f => frameFits f
  | _ => true

end Sys2Proof
end

