-- ==== Sys2Proof/Certificates/Slice0/Obligations.lean ====
section
/-! DEFINITION. The statements for the provers, each a proposition about the model. -/

open Sys2Proof Sys2Proof.Machine

/-! ### Steps, reset and power -/

/-- A step takes the command at the front of the queue and carries it out with the queue's rest. -/
def Obligations.StepTakesTheFrontCommand : Prop :=
  ∀ (s : State) (c : Instr) (rest : List Instr), s.pending = c :: rest → step s = exec c { s with pending := rest }

/-- With no command waiting a step is a tick of the Time Base (the model's choice, log 7): nothing outside service;
in service, where no timer comes to its limit, one second passes and nothing else happens: the move watchdog, the hold
timers, the grace timers, the station watchdog and, while it is loaded, the sweep timer each count one, and the timer
of an exchange position counts one while its interlock is clear (R100, R102, R127). -/
def Obligations.IdleStepTicks : Prop :=
  ∀ s : State, s.pending = [] →
    step s = .next s.tick
      ∧ (s.power ≠ .running → s.tick = s)
      ∧ ∀ more : Timer → Timer, (∀ w, more w = { count := w.count + 1, limit := w.limit }) → s.power = .running →
          (∀ w, s.acct.du.watchdog = some w → w.count + 1 < w.limit) →
          (∀ (k : Scanner) w, (s.acct.xu[k]).hold = some w → w.count + 1 < w.limit) →
          (∀ (k : Scanner) w, (s.acct.xu[k]).interlock = false → (s.acct.xu[k]).timer = some w →
            w.count + 1 < w.limit) →
          (∀ (k : Scanner) w, s.acct.grace[k] = some w → w.count + 1 < w.limit) →
          (∀ w, s.acct.qu.watchdog = some w → w.count + 1 < w.limit) →
          (∀ period, s.acct.qu.sweepLoaded = some period → s.acct.qu.sweepCounted + 1 < 60 * period) →
          s.tick =
            { s with
              acct :=
                { s.acct with
                  du := { s.acct.du with watchdog := s.acct.du.watchdog.map more }
                  xu := s.acct.xu.map (fun x =>
                    { x with hold := x.hold.map more, timer := if x.interlock then x.timer else x.timer.map more })
                  qu :=
                    { s.acct.qu with
                      watchdog := s.acct.qu.watchdog.map more
                      sweepCounted :=
                        if s.acct.qu.sweepLoaded = none then s.acct.qu.sweepCounted else s.acct.qu.sweepCounted + 1 }
                  grace := s.acct.grace.map (fun w => w.map more) } }

/-- What reset leaves (R25, R54, R82, R105, R110, R114, R115, R116, R143, R154, R174, R176, R177, R179, R181, R193): the
part is RELOADING, and every block stands at the power-on values the rules state: no record and no claim, the sequence
of acceptances at its start, the intake port UNKNOWN and no grace timer running among them. -/
def Obligations.ResetLeavesTheStatedValues : Prop :=
  State.reset.power = .reloading ∧ State.reset.pending = []
    ∧ State.reset.acct.records = [] ∧ State.reset.acct.claims = [] ∧ State.reset.acct.nextOrder = 0
    ∧ State.reset.acct.du = .powerOn
    ∧ State.reset.acct.du.queue = [] ∧ State.reset.acct.du.staged = none ∧ State.reset.acct.du.taken = none
    ∧ State.reset.acct.du.watchdog = none ∧ State.reset.acct.du.state = .running
    ∧ State.reset.acct.du.waitExchange = [] ∧ State.reset.acct.du.waitStation = false
    ∧ State.reset.acct.du.waitFetch = [] ∧ State.reset.acct.du.waitCustody = []
    ∧ (∀ n, State.reset.acct.slot n = .unknown) ∧ State.reset.acct.sm.intake = .unknown
    ∧ State.reset.acct.sm.outtakeOccupied = true ∧ State.reset.acct.sm.gateOpen = false
    ∧ (∀ k : Scanner, (State.reset.acct.xu[k]).returnList = [] ∧ (State.reset.acct.xu[k]).lapse = false
        ∧ (State.reset.acct.xu[k]).timer = none ∧ (State.reset.acct.xu[k]).hold = none
        ∧ (State.reset.acct.xu[k]).interlock = true ∧ State.reset.acct.grace[k] = none)
    ∧ State.reset.acct.qu.station = .empty ∧ State.reset.acct.qu.watchdog = none
    ∧ State.reset.acct.qu.abandoned = none ∧ State.reset.acct.qu.routing = []
    ∧ State.reset.acct.qu.sweepLoaded = none ∧ State.reset.acct.qu.sweepCounted = 0
    ∧ State.reset.links.addressed = false
    ∧ (∀ p : Port, State.reset.acct.up.get p = false
        ∧ (State.reset.io p).reader = .hunting ∧ (State.reset.io p).heldFrame = none
        ∧ (State.reset.io p).answering = none
        ∧ (State.reset.io p).flagP = false ∧ (State.reset.io p).flagN = false
        ∧ (State.reset.acct.notices.get p).queue = [] ∧ (State.reset.acct.notices.get p).overflow = false
        ∧ (State.reset.acct.notices.get p).summary = .none ∧ (State.reset.acct.notices.get p).mode = .level
        ∧ (State.reset.acct.notices.get p).mask = { info := true, attention := true, fault := true }
        ∧ (State.reset.acct.notices.get p).asserted = false)
    ∧ State.reset.store.queue = [] ∧ State.reset.store.stage = none ∧ State.reset.store.owed = []
    ∧ State.reset.store.syncRequest = false ∧ State.reset.store.format = none ∧ State.reset.store.inFlight = none

/-- The state right after reset satisfies what every step keeps. -/
def Obligations.ResetIsSound : Prop := State.reset.Sound

/-- Every step keeps: at most 8 notices in a queue (R188), no flags on the handler and inspection ports (R181),
no identity carried by two records in use (R2), and the numbers in every table strictly rising. -/
def Obligations.StepKeepsTheStateSound : Prop := ∀ s t : State, s.Sound → step s = .next t → t.Sound

/-- POWER_ON_RESET and POWER_LOSS: every block takes its power-on values, and so does every output: the transmit lines
at mark, SDIR inactive, the attention outputs released, INTAKE_OK low; the array stays, but for the page of a
program in flight, which keeps its content or is unreadable (R162, R174, R175, R187; logs 10 and 25). -/
def Obligations.PowerFailureLeavesTheArrayAlone : Prop :=
  ∀ s : State, ∃ t u : State, exec .powerOnReset s = .next t ∧ exec .powerLoss s = .next u
    ∧ t.power = .resetLow ∧ u.power = .off
    ∧ ∀ v : State, v = t ∨ v = u →
        v.acct = .powerOn ∧ v.links.ports = .all .powerOn ∧ v.links.addressed = false ∧ v.OutputsAtPowerOn
          ∧ v.links.station = s.links.station ∧ v.pending = s.pending
          ∧ v.store.queue = [] ∧ v.store.stage = none ∧ v.store.owed = [] ∧ v.store.inFlight = none
          ∧ v.store.syncRequest = false ∧ v.store.format = none ∧ v.store.mark = s.store.mark
          ∧ ∀ pl : PagePlace,
              v.store.pageAt pl = s.store.pageAt pl
                ∨ (∃ pr, s.store.inFlight = some pr ∧ pr.place = pl) ∧ v.store.pageAt pl = .unreadable

/-- RESET_RELEASED: RELOADING begins and the station number is read from the straps (R176, R187); later straps are
read no more in service. -/
def Obligations.ResetReleaseReadsTheStraps : Prop :=
  ∀ (s : State) (straps : BitVec 4),
    (s.power = .resetLow →
      exec (.resetReleased straps) s =
        .next { s with power := .reloading, links := { s.links with station := straps } })
    ∧ (s.power = .running → exec (.resetReleased straps) s = .next s)

/-- RELOAD_END: service begins; the settings and the clean mark are those of the header page, or the FORMAT values
and the mark clear where it cannot be read; the records in use are those whose pages were found, with the
identities they carry. Under the trusted policy a record retained STORED, OUTBOUND, INBOUND or ISSUED keeps its state
and place, unless another found record contests the place, and R10 applies to the STORED ones; every other record, and
every record under the unverified policy, is UNVERIFIED with its retained place as last-known place. The slots, the
ports and the exchange positions follow from the records, and the gate from the slots; pages not readable are handed
over (R10, R25, R105, R110, R114 to R116, R169 to R172). Three clauses are the model's own: a slot that a settled and a
doubtful record name is OCCUPIED (log 22, DEDUCED), a contested OUTBOUND record has its retire pending as it was (log 34,
DEDUCED), and a page whose identity an earlier page carries retains no record for a position (log 45, DESIGN CHOICE). -/
def Obligations.ReloadEndBeginsService : Prop :=
  ∀ (s : State) (st : RetentionStore) (trusted : Prop), s.power = .reloading →
    st = { s.store with spareMap := rebuildSpares s.store } →
    (trusted ↔ ∃ settings, currentContent st .header = some (.header settings true)) →
    ∃ t, exec .reloadEnd s = .next t
      ∧ t.power = .running ∧ t.links = s.links ∧ t.pending = s.pending ∧ t.freeIndex = s.freeIndex
      ∧ t.acct.up = s.acct.up ∧ t.acct.everUp = s.acct.everUp ∧ t.acct.grace = s.acct.grace
      ∧ t.store.spareMap = rebuildSpares s.store
      ∧ t.store.headerPage = s.store.headerPage ∧ t.store.recordPages = s.store.recordPages
      ∧ t.store.sparePages = s.store.sparePages
      ∧ (∀ settings mark, currentContent st .header = some (.header settings mark) →
          t.acct.settings = settings ∧ t.store.mark = mark)
      ∧ ((∀ settings mark, currentContent st .header ≠ some (.header settings mark)) →
          t.acct.settings = Settings.format ∧ t.store.mark = false ∧ Awaits t .header)
      ∧ (∀ n, (t.acct.record n).isSome ↔ ∃ r, (n, r) ∈ (readRecords st).1)
      ∧ (∀ n r, (n, r) ∈ (readRecords st).1 →
          ∃ y, t.acct.record n = some y ∧ y.ident = r.ident ∧ y.expCount = r.expCount ∧ y.age = r.age
            ∧ ∀ settles : Prop,
                (settles ↔ trusted
                  ∧ (r.state = .issued
                    ∨ r.state = .inbound ∧ (∀ q ∈ (readRecords st).1, q.1 ≠ n → q.2.state ≠ .inbound)
                    ∨ (r.state = .stored ∨ r.state = .outbound)
                      ∧ ∀ q ∈ (readRecords st).1, q.1 ≠ n → q.2.state = .stored ∨ q.2.state = .outbound →
                          q.2.place ≠ r.place)) →
                (settles → y.place = r.place ∧ y.lastKnown = none
                  ∧ (r.state = .stored →
                      y.custody = (if r.retirePending then Custody.outbound else Custody.stored)
                        ∧ y.retirePending = false
                        ∧ y.held = (if r.held = .holdPending then Held.held else r.held))
                  ∧ (r.state ≠ .stored →
                      y.custody = r.state ∧ y.retirePending = r.retirePending ∧ y.held = r.held)
                  ∧ (∀ k, r.state = .issued → r.place = some (.tool k) → y.holder = some k)
                  ∧ (r.state ≠ .issued → y.holder = none))
                ∧ (¬settles → y.custody = .unverified ∧ y.place = none ∧ y.lastKnown = r.place ∧ y.holder = none
                  ∧ y.held = r.held ∧ (trusted → y.retirePending = r.retirePending)
                  ∧ (¬trusted → y.retirePending = (r.retirePending || decide (r.state = .outbound)))))
      ∧ (∀ n m y, t.acct.record m = some y → y.place = some (.slot n) → t.acct.slot n = .occupied m)
      ∧ (∀ n, (∀ m y, t.acct.record m = some y → y.place ≠ some (.slot n)) →
          ((∃ m y, t.acct.record m = some y ∧ y.lastKnown = some (.slot n)) → t.acct.slot n = .unknown)
            ∧ ((∀ m y, t.acct.record m = some y → y.lastKnown ≠ some (.slot n)) →
                t.acct.slot n = .empty ∨ ∃ mv, t.acct.slot n = .expected mv))
      ∧ (∀ m y, t.acct.record m = some y → y.place = some .intakePort → t.acct.sm.intake = .occupied m)
      ∧ ((∀ m y, t.acct.record m = some y → y.place ≠ some .intakePort) →
          ((∃ m y, t.acct.record m = some y ∧ y.lastKnown = some .intakePort) → t.acct.sm.intake = .unknown)
            ∧ ((∀ m y, t.acct.record m = some y → y.lastKnown ≠ some .intakePort) → t.acct.sm.intake = .empty))
      ∧ t.acct.sm.outtakeOccupied = true
      ∧ t.acct.sm.gateOpen = decide (t.acct.settings.reserve < t.acct.freeSlots)
      ∧ (∀ k : Scanner,
          if ∃ q ∈ (readRecords st).1, (q.2.state = .presented ∨ q.2.state = .tendered) ∧ q.2.place = some (.exchange k)
          then (t.acct.xu[k]).position = .unknown
          else (t.acct.xu[k]).position = .empty ∨ (t.acct.xu[k]).position = .incoming)
      ∧ (∀ n ∈ (readRecords st).2, Awaits t (.record n))

/-! ### Every request (R179 to R182) -/

/-- While RELOADING every request is answered STARTING, and nothing else happens (R180, step 1). -/
def Obligations.RequestsWhileReloadingAreStarting : Prop :=
  ∀ (s : State) (i : Instr) (p : Port) (m code : Byte), s.power = .reloading → requestOf i = some (p, m, code) →
    ∃ t, exec i s = .next t
      ∧ Answered s t p code .starting (s.io p).flagP (s.io p).flagN false 0 .nothing ∧ OnlyAnswered s t

/-- A MODIFIER with a guard above 7, an effect above 5, or, on the handler and inspection ports, anything but ALWAYS
and KEEP, is answered MALFORMED, flags unchanged (R180, step 2). -/
def Obligations.BadModifiersAreMalformed : Prop :=
  ∀ (s : State) (i : Instr) (p : Port) (m code : Byte), s.power = .running → requestOf i = some (p, m, code) →
    7 < guardField m ∨ 5 < effectField m ∨ ((p = .hdl ∨ p = .ins) ∧ m ≠ 0) →
    ∃ t, exec i s = .next t
      ∧ Answered s t p code .malformed (s.io p).flagP (s.io p).flagN false 0 .nothing ∧ OnlyAnswered s t

/-- A request on a port it is not permitted on is answered NOT_PERMITTED, the effect applied with test false and
count 0 (R180, step 4). -/
def Obligations.RequestsElsewhereAreNotPermitted : Prop :=
  ∀ (s : State) (i : Instr) (p : Port) (m : Byte) (c : Code), s.power = .running → modifierOk p m = true →
    requestOf i = some (p, m, c.byte) → permitted c p = false →
    ∃ t, exec i s = .next t
      ∧ Answered s t p c.byte .notPermitted (effectP m (s.io p).flagP false) (effectN m (s.io p).flagN 0) false 0 .nothing
      ∧ OnlyAnswered s t

/-- The guard decides whether a request runs: by the table of R182, a request whose guard is false is answered
SKIPPED and changes nothing, and one whose guard is true is not. -/
def Obligations.GuardsDecideWhetherARequestRuns : Prop :=
  ∀ (s : State) (i : Instr) (p : Port) (m : Byte) (c : Code) (runs : Prop), s.power = .running →
    modifierOk p m = true → requestOf i = some (p, m, c.byte) → permitted c p = true →
    (runs ↔
      guardField m = 0
        ∨ guardField m = 1 ∧ (s.io p).flagP = true
        ∨ guardField m = 2 ∧ (s.io p).flagP = false
        ∨ guardField m = 3 ∧ (s.io p).flagN = true
        ∨ guardField m = 4 ∧ (s.io p).flagN = false
        ∨ guardField m = 5 ∧ (s.io p).flagP = true ∧ (s.io p).flagN = true
        ∨ guardField m = 6 ∧ (s.io p).flagP = true ∧ (s.io p).flagN = false
        ∨ guardField m = 7 ∧ ((s.io p).flagP = false ∨ (s.io p).flagN = true)) →
    (¬runs → ∃ t, exec i s = .next t
      ∧ Answered s t p c.byte .skipped (s.io p).flagP (s.io p).flagN false 0 .nothing ∧ OnlyAnswered s t)
    ∧ (runs → ∃ t r, exec i s = .next t ∧ (t.io p).answering = some r ∧ r.code = c.byte
        ∧ r.outcome ≠ .skipped ∧ r.outcome ≠ .starting ∧ r.outcome ≠ .notPermitted)

/-- A code outside the catalogue is answered MALFORMED, the effect applied with test false and count 0 (R180,
step 3). -/
def Obligations.UnlistedCodesAreMalformed : Prop :=
  ∀ (s : State) (p : Port) (m code : Byte), s.power = .running → modifierOk p m = true → codeOf code = none →
    ∃ t, exec (.unlistedCodeRequest p m code) s = .next t
      ∧ Answered s t p code .malformed (effectP m (s.io p).flagP false) (effectN m (s.io p).flagN 0) false 0 .nothing
      ∧ OnlyAnswered s t

/-- A request answered anything but DONE has changed nothing but its own answer and flags; a PHASE_ERROR, of a TAKEN
or a PUT, has entered its notice at the supervisor port besides (R85, R180). -/
def Obligations.RefusedRequestsChangeNothing : Prop :=
  ∀ (s t : State) (i : Instr) (p : Port) (m code : Byte) (r : Response), s.power = .running →
    requestOf i = some (p, m, code) → exec i s = .next t → (t.io p).answering = some r → r.outcome ≠ .done →
    t.store = s.store ∧ t.freeIndex = s.freeIndex ∧ t.pending = s.pending ∧ t.power = s.power
      ∧ (r.outcome ≠ .phaseError → t.acct = s.acct)
      ∧ (r.outcome = .phaseError →
          t.acct = { s.acct with notices := t.acct.notices }
            ∧ (∀ q, q ≠ .sup → t.acct.notices.get q = s.acct.notices.get q)
            ∧ ∃ (k : Scanner) (id : Ident) (report : ScannerReport), p = .tool k
                ∧ (i = .taken p m id ∧ report = .taken ∨ i = .put p m id ∧ report = .put)
                ∧ t.acct.notices.get .sup =
                    (s.acct.notices.get .sup).enter
                      (.phaseError k report id (s.acct.xu[k]).position (Account.phaseOf (s.acct.xu[k]).position)))

/-- A request leaves the other ports' readers, held frames and answers, and the supervisor port's addressing and
station number, as they stand; and the other ports' flags, unless it is CLEAR (R181). -/
def Obligations.RequestsLeaveOtherPortsAlone : Prop :=
  ∀ (s t : State) (i : Instr) (p q : Port) (m code : Byte), requestOf i = some (p, m, code) → exec i s = .next t →
    q ≠ p →
    (t.io q).reader = (s.io q).reader ∧ (t.io q).heldFrame = (s.io q).heldFrame
      ∧ (t.io q).answering = (s.io q).answering
      ∧ t.links.station = s.links.station ∧ t.links.addressed = s.links.addressed
      ∧ ((∀ a b, i ≠ .clear a b) → (t.io q).flagP = (s.io q).flagP ∧ (t.io q).flagN = (s.io q).flagN)

/-! ### Requests of every port -/

/-- SET_FLAGS gives P and N the values sent, whatever its effect field, and changes nothing else (R183); another
value is MALFORMED, with the effect. SET_ATTENTION replaces mode and mask and ends a pulse (R192). The code of KEEP
and of the modes are log 13's. -/
def Obligations.SetFlagsAndSetAttentionReplace : Prop :=
  ∀ (s : State) (p : Port) (m : Byte),
    (∀ pv nv, Runs s p m .setFlags → pv ≤ 2 → nv ≤ 2 →
      ∃ t, exec (.setFlags p m pv nv) s = .next t
        ∧ Answered s t p Code.setFlags.byte .done (flagGiven pv (s.io p).flagP) (flagGiven nv (s.io p).flagN) true
            (s.acct.notices.get p).queue.length .nothing
        ∧ OnlyAnswered s t)
    ∧ (∀ pv nv, Runs s p m .setFlags → 2 < pv ∨ 2 < nv →
      ∃ t, exec (.setFlags p m pv nv) s = .next t
        ∧ Answered s t p Code.setFlags.byte .malformed (effectP m (s.io p).flagP false) (effectN m (s.io p).flagN 0)
            false 0 .nothing
        ∧ OnlyAnswered s t)
    ∧ (∀ mode mask md, Runs s p m .setAttention → (mode = 0 ∧ md = .level ∨ mode = 1 ∧ md = .pulse) → mask ≤ 7 →
      ∃ t test, exec (.setAttention p m mode mask) s = .next t
        ∧ Done s t p m .setAttention { test := test, count := (s.acct.notices.get p).queue.length }
        ∧ (test = true ↔ md = .level ∧ ∃ n ∈ (s.acct.notices.get p).queue, (maskOf mask).has n.cls = true)
        ∧ t.acct.notices.get p =
            { s.acct.notices.get p with
              mode := md, pulsing := false
              mask := { info := decide (mask % 2 = 1), attention := decide (mask / 2 % 2 = 1),
                        fault := decide (mask / 4 % 2 = 1) } }
        ∧ (∀ q, q ≠ p → t.acct.notices.get q = s.acct.notices.get q)
        ∧ t.acct = { s.acct with notices := t.acct.notices } ∧ t.store = s.store ∧ t.freeIndex = s.freeIndex)

/-- FETCH_NOTICE (R190). -/
def Obligations.FetchNoticeTakesTheOldestEntry : Prop :=
  ∀ (s : State) (p : Port) (m : Byte) (ns : NoticeState), ns = s.acct.notices.get p →
    (Runs s p m .fetchNotice →
      ∃ t, exec (.fetchNotice p m) s = .next t
        ∧ Done s t p m .fetchNotice
            { test := !ns.queue.isEmpty, count := ns.queue.length - 1,
              payload := .notice ns.overflow ns.queue.head? }
        ∧ (t.acct.notices.get p).queue = ns.queue.tail ∧ (t.acct.notices.get p).overflow = false
        ∧ (t.acct.notices.get p).summary = ns.summary ∧ (t.acct.notices.get p).mode = ns.mode
        ∧ (t.acct.notices.get p).mask = ns.mask
        ∧ (NoticesBounded s.acct → (t.acct.notices.get p).queue.length ≤ 7)
        ∧ (∀ q, q ≠ p → t.acct.notices.get q = s.acct.notices.get q)
        ∧ t.acct = { s.acct with notices := t.acct.notices } ∧ t.store = s.store ∧ t.freeIndex = s.freeIndex)
    ∧ (s.power = .running → modifierOk p m = true → permitted .fetchNotice p = true →
        guardTrue m (s.io p).flagP (s.io p).flagN = false →
        ∃ t, exec (.fetchNotice p m) s = .next t ∧ t.acct = s.acct)

/-- The summary: a notice that reaches a port sets its class's indication, entered or discarded; CLEAR_SUMMARY clears
all three and nothing else; FETCH_NOTICE never does (R191). -/
def Obligations.SummaryShowsWhatHasArrived : Prop :=
  (∀ (ns : NoticeState) (n : Notice) (c : NoticeClass),
      (ns.enter n).summary.has c = (ns.summary.has c || decide (n.cls = c)))
    ∧ (∀ ns : NoticeState, ns.fetched.summary = ns.summary)
    ∧ ∀ (s : State) (p : Port) (m : Byte) (ns : NoticeState), ns = s.acct.notices.get p → Runs s p m .clearSummary →
        ∃ t, exec (.clearSummary p m) s = .next t
          ∧ Done s t p m .clearSummary
              { test := ns.summary.info || ns.summary.attention || ns.summary.fault, count := ns.queue.length }
          ∧ t.acct.notices.get p = { ns with summary := { info := false, attention := false, fault := false } }
          ∧ (∀ q, q ≠ p → t.acct.notices.get q = s.acct.notices.get q)
          ∧ t.acct = { s.acct with notices := t.acct.notices } ∧ t.store = s.store ∧ t.freeIndex = s.freeIndex

/-! ### Inquiries -/

/-- QUERY tells the record and its queue, whether the record is grantable now to the asker, and changes nothing
(R53). -/
def Obligations.QueryTellsWhetherARecordIsGrantable : Prop :=
  ∀ (s : State) (p : Port) (m : Byte) (id : Ident) (r : Nat) (x : Record), Runs s p m .query → Names s id r x →
    ∃ t test, exec (.query p m id) s = .next t
      ∧ Done s t p m .query
          { test := test, count := x.claimQueue.length
            payload := .query (summaryOf s.acct r x)
              ((Work.queuedClaims s.acct r).map (fun q =>
                { tool := q.2.tool, priority := q.2.priority,
                  tag := if p = .tool q.2.tool then some q.2.tag else none })) }
      ∧ (test = true ↔
          x.custody = .stored ∧ x.due = false ∧ x.held = .none ∧ x.rejected = false ∧ x.retirePending = false
            ∧ x.claimQueue = [] ∧ (∀ mv ∈ s.acct.moves, mv.subject ≠ some r)
            ∧ (∀ k, p = .tool k → (s.acct.settings.tools[k]).enabled = true))
      ∧ OnlyAnswered s t

/-- READ_RECORD by identity or number tells the record; FIND lists the first eight matches in ascending number; both
change nothing (R23, R24). -/
def Obligations.ReadRecordAndFindTell : Prop :=
  (∀ (s : State) (p : Port) (m : Byte) (which : RecordRef) (r : Nat) (x : Record), Runs s p m .readRecord →
      (which = .byNumber r ∧ r < 832 ∧ s.acct.record r = some x ∨ ∃ id, which = .byIdent id ∧ Names s id r x) →
      ∃ t, exec (.readRecord p m which) s = .next t
        ∧ Done s t p m .readRecord
            { test := decide (x.custody ≠ .unverified), count := x.claimQueue.length,
              payload := .summary (summaryOf s.acct r x) }
        ∧ OnlyAnswered s t)
    ∧ ∀ (s : State) (p : Port) (m : Byte) (start state : Nat) (cls : Option Nat) (hits : List (Nat × Record)),
      Runs s p m .find → start < 832 → state ≤ 9 ∨ state = 255 → (∀ c, cls = some c → c < 65536) →
      hits = (s.acct.records.filter (fun q =>
        decide (start ≤ q.1 ∧ (state = 255 ∨ custodyCode q.2.custody = state)
          ∧ (cls = none ∨ cls = some q.2.classCode)))).take 8 →
      ∃ t resume, exec (.find p m start state cls) s = .next t
        ∧ Done s t p m .find
            { test := resume.isNone, count := hits.length,
              payload := .found (hits.map (fun q => (q.2.ident, q.1))) resume }
        ∧ (∀ n, resume = some n ↔
            hits.length = 8 ∧ (∃ x, hits.getLast? = some (n - 1, x)) ∧ 1 ≤ n ∧ n < 832)
        ∧ OnlyAnswered s t

/-- TOOL_STATUS and IDENTIFY tell what they find and change nothing (R104, R184). -/
def Obligations.ToolStatusAndIdentifyTell : Prop :=
  (∀ (s : State) (k : Scanner) (m : Byte), Runs s (.tool k) m .toolStatus →
      ∃ t, exec (.toolStatus (.tool k) m) s = .next t
        ∧ Done s t (.tool k) m .toolStatus
            { test := decide ((s.acct.xu[k]).position = .opened), count := (s.acct.xu[k]).returnList.length,
              payload := .toolStatus (toolStatusOf s.acct k) }
        ∧ OnlyAnswered s t)
    ∧ ∀ (s : State) (p : Port) (m : Byte), Runs s p m .identify →
      ∃ t i, exec (.identify p m) s = .next t
        ∧ Done s t p m .identify
            { test := decide (s.acct.du.state = .running), count := s.acct.records.length,
              payload := .identification i }
        ∧ i.partCode = 340 ∧ i.station = s.links.station ∧ i.links = s.acct.up ∧ i.dispatch = s.acct.du.state
        ∧ i.programming = s.store.programming s.power ∧ i.mark = s.store.mark
        ∧ i.recordsInUse = s.acct.records.length
        ∧ OnlyAnswered s t

/-! ### Requests of the scanners -/

/-- An accepted CLAIM: a WAITING claim with the next position of acceptance takes the lowest free number and stands at
the tail of its members' claim queues, and it is granted in the same event where every member can be granted and the
dispatch queue has room: it leaves the queues, its members are ALLOTTED to the scanner, each with its FETCH move in the
dispatch, and the scanner is told (R29 to R33, R36 to R38). -/
def Obligations.ClaimEntersTheClaimTable : Prop :=
  ∀ (s : State) (k : Scanner) (m : Byte) (tag : Nat) (ids : List Ident) (ms : List (Nat × Record)) (c : Nat),
    Runs s (.tool k) m .claim → tag ≤ 254 → (s.acct.settings.tools[k]).enabled = true →
    1 ≤ ids.length → ids.length ≤ 4 → ids.Nodup → List.Forall₂ (fun id q => Names s id q.1 q.2) ids ms →
    s.acct.findClaim k tag = none →
    (∀ q ∈ ms, q.2.rejected = false ∧ q.2.retirePending = false ∧ q.2.custody ≠ .outbound
      ∧ claimedBy s.acct k q.1 = false ∧ q.2.claimQueue.length < 8) →
    s.acct.openClaims k < 8 → Table.lowestFree s.acct.claims 64 = some c →
    s.acct.libraryLoad k + ms.length ≤ (s.acct.settings.tools[k]).capacity →
    ∃ t y, exec (.claim (.tool k) m tag ids) s = .next t
      ∧ Done s t (.tool k) m .claim { test := true, count := (ms.map (fun q => q.2.claimQueue.length)).sum }
      ∧ Table.lookup t.acct.claims c = some y
      ∧ y.terms =
          { tool := k, tag := tag, priority := .normal,
            members := ms.map (fun q => { record := some q.1, taken := false }), state := .waiting,
            order := s.acct.nextOrder, heldForRoom := false }
      ∧ t.acct.nextOrder = s.acct.nextOrder + 1
      ∧ ((∀ q ∈ ms, q.2.custody = .stored ∧ q.2.due = false ∧ q.2.held = .none ∧ q.2.claimQueue = []
            ∧ s.acct.named q.1 = false) →
          s.acct.reachable k = true → ms.length ≤ s.acct.freeEntries → y.state = .granted)
      ∧ ((∃ q ∈ ms, q.2.custody ≠ .stored ∨ q.2.due = true ∨ q.2.held ≠ .none
            ∨ ∃ d rest, q.2.claimQueue = d :: rest ∧ d ≠ c) →
          y.state = .waiting)
      ∧ (y.state = .waiting → ∀ q ∈ ms, t.acct.record q.1 = some { q.2 with claimQueue := q.2.claimQueue ++ [c] })
      ∧ (y.state = .granted →
          Tells s t (.tool k) [.granted tag ms.length]
            ∧ ∀ q ∈ ms,
                t.acct.record q.1 =
                    some
                      { q.2 with
                        custody := .allotted, holder := some k
                        claimQueue := q.2.claimQueue.filter (fun d => decide (d ≠ c)) }
                  ∧ ∀ place, q.2.place = some place →
                      ∃ mv ∈ t.acct.moves, mv.kind = .fetch ∧ mv.subject = some q.1 ∧ mv.source = place
                        ∧ mv.ordered = .at (.exchange k) ∧ mv.priority = .normal
                        ∧ mv.cause = some { tool := k, tag := tag, order := s.acct.nextOrder, ended := none })
      ∧ (∀ d x, d ≠ c → Table.lookup s.acct.claims d = some x →
          ∃ z, Table.lookup t.acct.claims d = some z ∧ z.terms = x.terms)
      ∧ (∀ r, (∀ q ∈ ms, q.1 ≠ r) → t.acct.record r = s.acct.record r)
      ∧ OthersKept s t [] ∧ t.acct.settings = s.acct.settings ∧ t.acct.up = s.acct.up
      ∧ t.acct.grace = s.acct.grace ∧ t.store = s.store ∧ t.freeIndex = s.freeIndex

/-- CANCEL ends the claim and tells the scanner; a WAITING one leaves its members' queues. Each untaken member of a
GRANTED one is dealt with as it stands: ALLOTTED before its pick it enters STORED again, unless its FETCH is ACTIVE,
which goes on with its claim ended; HOLDING at an interlock it is redirected; PRESENTED its position is recalled;
CARRYING or UNVERIFIED it stays. The other claims and the records that are not its members stay (R10, R42 to R44). -/
def Obligations.CancelEndsTheClaim : Prop :=
  ∀ (s : State) (k : Scanner) (m : Byte) (tag c : Nat) (x : Claim), Runs s (.tool k) m .cancel → tag ≤ 254 →
    s.acct.findClaim k tag = some (c, x) → Table.lookup s.acct.claims c = some x →
    ∃ t, exec (.cancel (.tool k) m tag) s = .next t
      ∧ Done s t (.tool k) m .cancel { test := decide (x.state = .waiting), count := wayBackCount s.acct x }
      ∧ Table.lookup t.acct.claims c = none
      ∧ Tells s t (.tool k) [.claimEnded tag .cancelled (x.members.countP (·.taken))]
      ∧ (x.state = .waiting → ∀ mem r y, mem ∈ x.members → mem.record = some r → t.acct.record r = some y →
          c ∉ y.claimQueue)
      ∧ (x.state = .granted → ∀ mem r y, mem ∈ x.members → mem.taken = false → mem.record = some r →
          s.acct.record r = some y →
          ∃ z, t.acct.record r = some z ∧ z.place = y.place
            ∧ (y.custody = .allotted →
                (∀ mv ∈ s.acct.moves, mv.subject = some r → mv.state = .queued ∨ mv.state = .staged) →
                EntersStored y z)
            ∧ (y.custody = .allotted → (∀ mv ∈ s.acct.moves, mv.subject = some r → mv.state = .active) →
                (∃ mv, s.acct.du.taken = some mv ∧ mv.kind = .fetch ∧ mv.subject = some r) → z.aside = y.aside)
            ∧ (y.custody ≠ .allotted → y.custody ≠ .stored → z.aside = y.aside)
            ∧ (∀ mv, y.custody = .inTransit → s.acct.du.taken = some mv → mv.subject = some r →
                mv.state = .holding .interlock → OwnNumber s mv.number → Redirected t mv.number)
            ∧ (∀ j : Scanner, y.custody = .presented → y.place = some (.exchange j) →
                (s.acct.xu[j]).position = .presented r →
                (t.acct.xu[j]).position = .recalled r ∧ (t.acct.xu[j]).timer = none))
      ∧ (∀ mv cause, x.state = .granted → s.acct.du.taken = some mv →
          mv.state = .active ∨ mv.state = .carrying → mv.cause = some cause → cause.order = x.order →
          cause.ended = none →
          ∃ z, t.acct.du.taken = some z ∧ z.number = mv.number ∧ z.state = mv.state ∧ z.dest = mv.dest
            ∧ z.cause =
                some { cause with ended := some (.cancelled, (Work.untakenMembers x).length) })
      ∧ (∀ d z, d ≠ c → Table.lookup s.acct.claims d = some z →
          ∃ z', Table.lookup t.acct.claims d = some z' ∧ z'.terms = z.terms)
      ∧ OthersKept s t (x.members.filterMap (·.record)) ∧ Framed s t ∧ t.freeIndex = s.freeIndex

/-- PROMOTE makes a NORMAL claim HOT and leaves a HOT one. In every member queue of a WAITING claim the reference moves
to its HOT place, after the HOT claims of earlier acceptance and ahead of every other, unless the claim is granted in
the event and leaves the queues; the QUEUED FETCH moves of a GRANTED claim's untaken members become HOT; no other record
and no other queue changes (R51, R60). EXPUNGE deletes an UNVERIFIED record, its number and identity free again, its
page handed over as an erase, and ends the claims waiting for it (R2, R11, R159). -/
def Obligations.PromoteReordersAndExpungeDeletes : Prop :=
  (∀ (s : State) (p : Port) (m : Byte) (tool tag : Nat) (k : Scanner) (c : Nat) (x : Claim), Runs s p m .promote →
    tool = k.val → tag ≤ 254 → s.acct.findClaim k tag = some (c, x) → Table.lookup s.acct.claims c = some x →
    ∃ t y, exec (.promote p m tool tag) s = .next t
      ∧ Done s t p m .promote (promoteReply c t)
      ∧ Table.lookup t.acct.claims c = some y ∧ y.terms = { x with priority := .hot }.terms
      ∧ (x.state = .granted → y.state = .granted ∧ promoteReply c t = { test := true, count := 0 })
      ∧ (x.priority = .hot → OnlyAnswered s t)
      ∧ (x.priority = .normal → x.state = .waiting → ∀ ahead : Nat → Bool,
          (∀ d, ahead d = true ↔
            ∃ z, Table.lookup s.acct.claims d = some z ∧ z.priority = .hot ∧ z.order < x.order) →
          (∀ mem r u, mem ∈ x.members → mem.record = some r → s.acct.record r = some u →
            ∃ v rest, t.acct.record r = some v ∧ rest = u.claimQueue.filter (fun d => decide (d ≠ c))
              ∧ (y.state = .waiting → v.claimQueue = rest.takeWhile ahead ++ c :: rest.dropWhile ahead)
              ∧ (y.state = .granted → v.claimQueue = rest))
          ∧ ∀ r, (∀ mem ∈ x.members, mem.record ≠ some r) → t.acct.record r = s.acct.record r)
      ∧ (x.priority = .normal → x.state = .granted →
          t.acct.records = s.acct.records
          ∧ ∀ mem r mv, mem ∈ x.members → mem.taken = false → mem.record = some r → mv ∈ s.acct.du.queue →
              mv.kind = .fetch → mv.subject = some r →
              (∀ mv' ∈ s.acct.du.queue, mv'.subject = some r ∨ mv'.number = mv.number → mv' = mv) →
              ∃ mv' ∈ t.acct.moves, mv'.number = mv.number ∧ mv'.kind = .fetch ∧ mv'.subject = some r
                ∧ mv'.priority = .hot)
      ∧ OthersKept s t [] ∧ Framed s t ∧ t.store = s.store ∧ t.freeIndex = s.freeIndex)
  ∧ ∀ (s : State) (p : Port) (m : Byte) (id : Ident) (r : Nat) (x : Record), Runs s p m .expunge → Names s id r x →
    x.custody = .unverified → QueueWaiting s.acct x →
    ∃ t, exec (.expunge p m id) s = .next t
      ∧ Done s t p m .expunge { test := true, count := x.claimQueue.length }
      ∧ t.acct.record r = none ∧ (DistinctIdents s.acct → t.acct.findIdent id = none) ∧ Awaits t (.record r)
      ∧ (∀ c ∈ x.claimQueue, Table.lookup t.acct.claims c = none)
      ∧ OthersKept s t [r] ∧ Framed s t ∧ t.freeIndex = s.freeIndex

/-- TAKEN of a PRESENTED pod, or of a RECALLED one whose RECOVER the handler has not taken: the record is ISSUED to
the scanner, the position is left, and the member's claim goes on or completes (R40, R88, R91, R94). -/
def Obligations.TakenIssuesThePod : Prop :=
  ∀ (s : State) (k : Scanner) (m : Byte) (id : Ident) (r : Nat) (x : Record), Runs s (.tool k) m .taken →
    Names s id r x → lateTaken s.acct k r = false →
    ((s.acct.xu[k]).position = .presented r ∨ (s.acct.xu[k]).position = .recalled r) →
    ∃ t y reply, exec (.taken (.tool k) m id) s = .next t
      ∧ Done s t (.tool k) m .taken reply
      ∧ t.acct.record r = some y ∧ y.custody = .issued ∧ y.place = some (.tool k) ∧ y.holder = some k
      ∧ y.rest = { x with place := some (.tool k) }.rest
      ∧ Awaits t (.record r)
      ∧ (if (s.acct.xu[k]).returnList ≠ [] ∧ (s.acct.xu[k]).interlock = false ∧ (s.acct.xu[k]).lapse = false then
          (t.acct.xu[k]).position = .opened
            ∧ (t.acct.xu[k]).timer = some { count := 0, limit := s.acct.settings.takeLimit }
        else
          ((t.acct.xu[k]).position = .empty ∨ (t.acct.xu[k]).position = .incoming) ∧ (t.acct.xu[k]).timer = none)
      ∧ (t.acct.xu[k]).returnList = (s.acct.xu[k]).returnList
      ∧ ((s.acct.xu[k]).position = .recalled r → reply = { test := false, count := 0 })
      ∧ (∀ c old left, (s.acct.xu[k]).position = .presented r → s.acct.grantedFor r = some (c, old) →
          Table.lookup s.acct.claims c = some old →
          left = old.members.countP (fun mem => !mem.taken && decide (mem.record ≠ some r)) →
          reply = { test := decide (left = 0), count := left }
            ∧ (left = 0 → Table.lookup t.acct.claims c = none)
            ∧ (left ≠ 0 → ∃ z, Table.lookup t.acct.claims c = some z ∧ z.state = .granted
                ∧ z.members = old.members.map (fun mem => if mem.record = some r then { mem with taken := true } else mem)))
      ∧ OthersKept s t [r] ∧ Framed s t ∧ t.freeIndex = s.freeIndex

/-- RELEASE of a pod the scanner holds puts it on the return-request list, and an EMPTY position with a clear interlock
opens for it unless access has lapsed while a FETCH is queued (R92 to R94). -/
def Obligations.ReleaseListsTheRequest : Prop :=
  ∀ (s : State) (k : Scanner) (m : Byte) (id : Ident) (r : Nat) (x : Record) (l : List Nat),
    Runs s (.tool k) m .release → Names s id r x → x.custody = .issued → x.holder = some k →
    l = (if r ∈ (s.acct.xu[k]).returnList then (s.acct.xu[k]).returnList else (s.acct.xu[k]).returnList ++ [r]) →
    l.length ≤ 12 →
    ∃ t y, exec (.release (.tool k) m id) s = .next t
      ∧ Done s t (.tool k) m .release
          { test := decide ((t.acct.xu[k]).position = .opened), count := l.length }
      ∧ (t.acct.xu[k]).returnList = l
      ∧ ((s.acct.xu[k]).position = .empty → (s.acct.xu[k]).interlock = false →
          (s.acct.xu[k]).lapse = false ∨ fetchQueued s.acct k = false →
          (t.acct.xu[k]).position = .opened
            ∧ (t.acct.xu[k]).timer = some { count := 0, limit := s.acct.settings.takeLimit })
      ∧ ((s.acct.xu[k]).position ≠ .empty → (t.acct.xu[k]).position = (s.acct.xu[k]).position)
      ∧ t.acct.record r = some y
      ∧ y = { x with returnRequested := if r ∈ (s.acct.xu[k]).returnList then x.returnRequested else true }
      ∧ (∀ q, q ≠ r → t.acct.record q = s.acct.record q) ∧ t.acct.claims = s.acct.claims
      ∧ Framed s t ∧ t.store = s.store ∧ t.freeIndex = s.freeIndex

/-- PUT at an OPEN position of a pod the list holds: the record is TENDERED there, its request is met, and its page
is handed over (R96). -/
def Obligations.PutTendersThePod : Prop :=
  ∀ (s : State) (k : Scanner) (m : Byte) (id : Ident) (r : Nat) (x : Record), Runs s (.tool k) m .put →
    Names s id r x → (s.acct.xu[k]).position = .opened → x.custody = .issued → x.holder = some k →
    r ∈ (s.acct.xu[k]).returnList →
    ∃ t y, exec (.put (.tool k) m id) s = .next t
      ∧ Done s t (.tool k) m .put
          { test := !t.acct.du.waitExchange.contains k
            count := ((s.acct.xu[k]).returnList.filter (fun q => decide (q ≠ r))).length }
      ∧ t.acct.record r = some y
      ∧ y.aside =
          { x with custody := .tendered, place := some (.exchange k), holder := some k, returnRequested := false }.aside
      ∧ (t.acct.xu[k]).position = .tendered r ∧ (t.acct.xu[k]).timer = none
      ∧ (t.acct.xu[k]).returnList = (s.acct.xu[k]).returnList.filter (fun q => decide (q ≠ r))
      ∧ Awaits t (.record r) ∧ OthersKept s t [r] ∧ Framed s t ∧ t.freeIndex = s.freeIndex

/-- EXPOSED adds to the exposure count, saturating, and compares: a limit reached makes the record due (R4, R5,
R124, R125). -/
def Obligations.ExposedCountsExposures : Prop :=
  ∀ (s : State) (k : Scanner) (m : Byte) (id : Ident) (n r : Nat) (x : Record) (total limit : Nat),
    Runs s (.tool k) m .exposed → Names s id r x → x.custody = .issued → x.holder = some k → 1 ≤ n → n ≤ 65535 →
    total = min (x.expCount + n) 16777215 → limit = x.expLimit.getD s.acct.settings.defaultExpLimit →
    ∃ t y, exec (.exposed (.tool k) m id n) s = .next t
      ∧ Done s t (.tool k) m .exposed { test := decide (total < limit), count := limit - total }
      ∧ t.acct.record r = some y
      ∧ y.aside =
          { x with
            expCount := total
            due := x.due || decide (limit ≤ total)
              || decide (x.ageLimit.getD s.acct.settings.defaultAgeLimit ≤ x.age) }.aside
      ∧ Awaits t (.record r)
      ∧ (∀ q, q ≠ r → t.acct.record q = s.acct.record q)
      ∧ (∀ p, p ≠ .tool k → p ≠ .sup → t.acct.notices.get p = s.acct.notices.get p)
      ∧ { t.acct with records := s.acct.records, notices := s.acct.notices } = s.acct
      ∧ ArrayKept s.store t.store ∧ t.freeIndex = s.freeIndex

/-! ### Requests of the supervisor on records -/

/-- REGISTER with the gate open and the intake port EMPTY: the lowest free record number takes the identity, INBOUND
at the intake port, and its INTAKE move is in the dispatch (R13, R14). -/
def Obligations.RegisterCreatesTheRecord : Prop :=
  ∀ (s : State) (p : Port) (m : Byte) (id : Ident) (cls : Nat) (e g h : Option Nat) (r : Nat), Runs s p m .register →
    identOk id = true → cls < 65536 → (∀ v, e = some v → 1 ≤ v ∧ v ≤ 16777215) →
    (∀ v, g = some v → 1 ≤ v ∧ v ≤ 16777215) → (∀ v, h = some v → v < 768) → s.acct.findIdent id = none →
    s.acct.sm.gateOpen = true → s.acct.sm.intake = .empty → Table.lowestFree s.acct.records 832 = some r →
    s.acct.freeEntries ≠ 0 →
    ∃ t y, exec (.register p m id cls e g h) s = .next t
      ∧ Done s t p m .register { test := true, count := 832 - (s.acct.records.length + 1) }
      ∧ t.acct.record r = some y
      ∧ y.aside =
          { ident := id, classCode := cls, custody := .inbound, place := some .intakePort, lastKnown := none,
            holder := none, home := h, expCount := 0, expLimit := e, age := 0, ageLimit := g, due := false,
            held := .none, rejected := false, retirePending := false, returnRequested := false,
            lastInspection := none, claimQueue := [], retention := .clean }
      ∧ t.acct.sm.intake = .occupied r
      ∧ (∃ mv ∈ t.acct.moves, mv.kind = .intake ∧ mv.subject = some r ∧ mv.source = .intakePort)
      ∧ Awaits t (.record r)
      ∧ (∀ q, q ≠ r → t.acct.record q = s.acct.record q) ∧ t.acct.claims = s.acct.claims
      ∧ Framed s t ∧ t.freeIndex = s.freeIndex

/-- RETIRE: a STORED record that no move names becomes OUTBOUND; a record of any other custody gets retire pending;
one already on its way out is left; and the claims waiting for the record end (R15, R16, R46). -/
def Obligations.RetireSendsTheRecordOut : Prop :=
  ∀ (s : State) (p : Port) (m : Byte) (id : Ident) (r : Nat) (x : Record), Runs s p m .retire → Names s id r x →
    QueueWaiting s.acct x →
    (x.custody = .outbound ∨ x.retirePending = true →
      ∃ t, exec (.retire p m id) s = .next t
        ∧ Done s t p m .retire { test := decide (x.custody = .outbound), count := 0 } ∧ OnlyAnswered s t)
    ∧ (x.custody = .stored → x.retirePending = false → s.acct.moveOf r = none → s.acct.freeEntries ≠ 0 →
      ∃ t y, exec (.retire p m id) s = .next t
        ∧ Done s t p m .retire { test := true, count := x.claimQueue.length }
        ∧ t.acct.record r = some y ∧ y.custody = .outbound ∧ y.place = x.place
        ∧ y.rest = x.rest ∧ Awaits t (.record r)
        ∧ (∀ c ∈ x.claimQueue, Table.lookup t.acct.claims c = none)
        ∧ OthersKept s t [r] ∧ Framed s t ∧ t.freeIndex = s.freeIndex)
    ∧ (x.custody ≠ .stored → x.custody ≠ .outbound → x.retirePending = false →
      ∃ t y, exec (.retire p m id) s = .next t
        ∧ Done s t p m .retire { test := false, count := x.claimQueue.length }
        ∧ t.acct.record r = some y ∧ y.custody = x.custody ∧ y.holder = x.holder
        ∧ y.rest = { x with retirePending := true }.rest ∧ Awaits t (.record r)
        ∧ (∀ c ∈ x.claimQueue, Table.lookup t.acct.claims c = none)
        ∧ OthersKept s t [r] ∧ Framed s t ∧ t.freeIndex = s.freeIndex)

/-- HOLD TRY (R18). -/
def Obligations.HoldTryHoldsAStoredRecord : Prop :=
  ∀ (s : State) (p : Port) (m : Byte) (id : Ident) (r : Nat) (x : Record), Runs s p m .hold → Names s id r x →
    ∃ t y, exec (.holdTry p m id) s = .next t
      ∧ Done s t p m .hold { test := decide (x.custody = .stored), count := x.claimQueue.length }
      ∧ t.acct.record r = some y
      ∧ y.aside = (if x.custody = .stored then { x with held := .held } else x).aside
      ∧ (x.custody = .stored → x.held ≠ .held → Awaits t (.record r))
      ∧ (x.custody ≠ .stored ∨ x.held = .held → OnlyAnswered s t)
      ∧ (∀ q, q ≠ r → t.acct.record q = s.acct.record q)
      ∧ (∀ q, q ≠ r → (q ∈ t.acct.qu.routing ↔ q ∈ s.acct.qu.routing))
      ∧ { t.acct with records := s.acct.records, qu := { t.acct.qu with routing := s.acct.qu.routing } } = s.acct
      ∧ ArrayKept s.store t.store ∧ t.freeIndex = s.freeIndex

/-- HOLD WAIT holds a STORED record and makes another's hold pending; UNHOLD clears either, its count the queue depth the
event leaves (R19, R20, R179). -/
def Obligations.HoldWaitAndUnholdSetHeld : Prop :=
  ∀ (s : State) (p : Port) (m : Byte) (id : Ident) (r : Nat) (x : Record), Names s id r x →
    (∀ h, Runs s p m .hold → h = (if x.custody = .stored ∨ x.held = .held then Held.held else Held.holdPending) →
      ∃ t y, exec (.holdWait p m id) s = .next t
        ∧ Done s t p m .hold { test := decide (h = .held), count := x.claimQueue.length }
        ∧ t.acct.record r = some y ∧ y.aside = { x with held := h }.aside
        ∧ (x.held ≠ h → Awaits t (.record r)) ∧ (x.held = h → OnlyAnswered s t)
        ∧ (∀ q, q ≠ r → t.acct.record q = s.acct.record q)
        ∧ { t.acct with records := s.acct.records, qu := { t.acct.qu with routing := s.acct.qu.routing } } = s.acct
        ∧ ArrayKept s.store t.store ∧ t.freeIndex = s.freeIndex)
    ∧ (Runs s p m .unhold →
      ∃ t y, exec (.unhold p m id) s = .next t
        ∧ Done s t p m .unhold { test := decide (x.held ≠ .none), count := y.claimQueue.length }
        ∧ t.acct.record r = some y ∧ KeepsRecord { x with held := .none } y
        ∧ (y.custody = x.custody → y.claimQueue = x.claimQueue)
        ∧ (x.held ≠ .none → Awaits t (.record r)) ∧ (x.held = .none → OnlyAnswered s t)
        ∧ OthersKept s t [r] ∧ Framed s t ∧ t.freeIndex = s.freeIndex)

/-- REWRITE replaces the record's attributes and counts, AMEND the attributes named, and either compares (R5, R21,
R22). -/
def Obligations.RewriteAndAmendReplaceAttributes : Prop :=
  ∀ (s : State) (p : Port) (m : Byte) (id : Ident) (r : Nat) (x : Record), Names s id r x →
    (∀ cls e g h c a new, Runs s p m .rewrite → rewriteOk cls e g h c a = true →
      new = compared s.acct.settings
        { x with classCode := cls, expLimit := e, ageLimit := g, home := h, expCount := c.getD 0, age := a.getD 0 } →
      ∃ t y, exec (.rewrite p m id cls e g h c a) s = .next t
        ∧ Done s t p m .rewrite
            { test := !new.due, count := new.expLimit.getD s.acct.settings.defaultExpLimit - new.expCount }
        ∧ t.acct.record r = some y ∧ KeepsRecord new y ∧ Awaits t (.record r)
        ∧ OthersKept s t [r] ∧ Framed s t ∧ t.freeIndex = s.freeIndex)
    ∧ (∀ cls h e g new, Runs s p m .amend → amendOk cls h e g false = true →
      new = compared s.acct.settings
        { x with
          classCode := (changed cls (some x.classCode)).getD x.classCode, home := changed h x.home
          expLimit := changed e x.expLimit, ageLimit := changed g x.ageLimit } →
      (¬(cls = .keep ∧ h = .keep ∧ e = .keep ∧ g = .keep) →
        ∃ t y, exec (.amend p m id cls h e g false) s = .next t
        ∧ Done s t p m .amend
            { test := !new.due, count := new.expLimit.getD s.acct.settings.defaultExpLimit - new.expCount }
        ∧ t.acct.record r = some y ∧ KeepsRecord new y ∧ (new ≠ x → Awaits t (.record r))
        ∧ OthersKept s t [r] ∧ Framed s t ∧ t.freeIndex = s.freeIndex)
      ∧ (cls = .keep → h = .keep → e = .keep → g = .keep →
        ∃ t, exec (.amend p m id cls h e g false) s = .next t
          ∧ Done s t p m .amend
              { test := !x.due, count := x.expLimit.getD s.acct.settings.defaultExpLimit - x.expCount }
          ∧ OnlyAnswered s t))

/-- INSPECT sets due on a record that is neither at the station nor bound for it (R134; log 27). -/
def Obligations.InspectMakesTheRecordDue : Prop :=
  ∀ (s : State) (p : Port) (m : Byte) (id : Ident) (r : Nat) (x : Record), Runs s p m .inspect → Names s id r x →
    x.custody ≠ .unverified → (x.rejected = true → x.custody = .stored ∧ s.acct.named r = false) →
    s.acct.freeEntries ≠ 0 →
    ∃ t y, exec (.inspect p m id) s = .next t
      ∧ Done s t p m .inspect { test := stationBound t.acct r, count := t.acct.toStationMoves }
      ∧ t.acct.record r = some y
      ∧ (stationBound s.acct r = false → y.aside = { x with due := true }.aside)
      ∧ (stationBound s.acct r = true → OnlyAnswered s t)
      ∧ (stationBound s.acct r = false → x.due = false → Awaits t (.record r))
      ∧ (∀ q, q ≠ r → t.acct.record q = s.acct.record q) ∧ t.acct.claims = s.acct.claims
      ∧ Framed s t ∧ t.freeIndex = s.freeIndex

/-- RELOCATE and AUDIT queue their moves and change no record. AUDIT deals with the slots of its range in ascending
order, until a slot finds no free entry and is the resume slot: a slot that is EXPECTED, under a VERIFY, or OCCUPIED by
a record that a move names or an owner waits to queue a move for, is passed over, and every other gets a VERIFY naming
its occupant; the slots examined are counted by state (R59, R118, R119, R133). -/
def Obligations.RelocateAndAuditQueueMoves : Prop :=
  (∀ (s : State) (p : Port) (m : Byte) (id : Ident) (r own : Nat) (x : Record) (dest : Option Nat),
      Runs s p m .relocate → Names s id r x → (∀ n, dest = some n → n < 768 ∧ n ≠ own) → x.custody = .stored →
      x.place = some (.slot own) → s.acct.named r = false → s.acct.freeEntries ≠ 0 →
      ∃ t test, exec (.relocate p m id dest) s = .next t
        ∧ Done s t p m .relocate { test := test, count := s.acct.du.queue.length }
        ∧ (∃ mv ∈ t.acct.moves, mv.kind = .relocate ∧ mv.subject = some r ∧ mv.source = .slot own
            ∧ mv.ordered = relocateDest dest)
        ∧ t.acct.records = s.acct.records ∧ t.acct.claims = s.acct.claims ∧ Framed s t ∧ t.store = s.store
        ∧ t.freeIndex = s.freeIndex)
    ∧ (∀ (a : Account) (n : Nat),
      passedOver a n = true ↔
        (∃ mv, a.slot n = .expected mv)
          ∨ (∃ mv ∈ a.moves, mv.kind = .verify ∧ mv.source = .slot n)
          ∨ ∃ r, a.slot n = .occupied r
            ∧ ((∃ mv ∈ a.moves, mv.subject = some r) ∨ r ∈ a.du.waitFetch ∨ r ∈ a.du.waitCustody
              ∨ r ∈ a.qu.routing
              ∨ ∃ q ∈ a.claims, q.2.heldForRoom = true ∧ ∃ mem ∈ q.2.members, mem.record = some r))
    ∧ ∀ (s : State) (p : Port) (m : Byte) (first count : Nat), Runs s p m .audit → first < 768 → 1 ≤ count →
      first + count ≤ 768 →
      ∃ t resume queued passed counts, exec (.audit p m first count) s = .next t
        ∧ Done s t p m .audit
            { test := resume.isNone, count := queued, payload := .audit resume passed counts }
        ∧ (count = 1 → passedOver s.acct first = false → s.acct.freeEntries ≠ 0 →
            resume = none ∧ queued = 1 ∧ passed = 0
              ∧ ∃ mv ∈ t.acct.moves, mv.kind = .verify ∧ mv.source = .slot first)
        ∧ (count = 1 → passedOver s.acct first = false → s.acct.freeEntries = 0 →
            resume = some first ∧ queued = 0 ∧ passed = 0)
        ∧ (count = 1 → passedOver s.acct first = true → resume = none ∧ queued = 0 ∧ passed = 1)
        ∧ (resume = none → passed + queued = count)
        ∧ ((∀ i j r, s.acct.slot i = .occupied r → s.acct.slot j = .occupied r → i = j) →
            ∀ examined, examined = List.range' first (resume.getD (first + count) - first) →
              passed = examined.countP (passedOver s.acct) ∧ passed + queued = examined.length
              ∧ queued ≤ s.acct.freeEntries
              ∧ (∀ n, resume = some n →
                  first ≤ n ∧ n < first + count ∧ passedOver s.acct n = false ∧ queued = s.acct.freeEntries)
              ∧ (∀ n ∈ examined, passedOver s.acct n = false →
                  ∃ mv ∈ t.acct.moves, mv.kind = .verify ∧ mv.source = .slot n ∧ mv.ordered = .absent
                    ∧ mv.priority = .normal ∧ mv.subject = Work.occupant (s.acct.slot n))
              ∧ counts.empty = examined.countP (fun n => decide (s.acct.slot n = .empty))
              ∧ counts.occupied = examined.countP (fun n => (Work.occupant (s.acct.slot n)).isSome)
              ∧ counts.unknown = examined.countP (fun n => decide (s.acct.slot n = .unknown))
              ∧ counts.foreign = examined.countP (fun n => decide (s.acct.slot n = .foreign))
              ∧ counts.empty + counts.occupied + counts.expected + counts.unknown + counts.foreign
                  = examined.length)
        ∧ t.acct.records = s.acct.records ∧ t.acct.claims = s.acct.claims ∧ Framed s t ∧ t.store = s.store
        ∧ t.freeIndex = s.freeIndex

/-- RESOLVE puts an UNVERIFIED record in the slot, or with the scanner, that the supervisor names; CLEAR_EXCHANGE
empties an UNKNOWN position (R94, R156 to R158). -/
def Obligations.ResolveAndClearExchangeSettleDoubts : Prop :=
  (∀ (s : State) (p : Port) (m : Byte) (id : Ident) (place r : Nat) (x : Record), Runs s p m .resolve →
      Names s id r x → x.custody = .unverified →
      (∀ n, place = n → n < 768 → (s.acct.slot n = .empty ∨ s.acct.slot n = .unknown ∨ s.acct.slot n = .foreign) →
        ∃ t y, exec (.resolve p m id place) s = .next t
          ∧ Done s t p m .resolve
              { test := decide (y.custody = .stored), count := countCustody t.acct .unverified }
          ∧ t.acct.record r = some y ∧ y.place = some (.slot n) ∧ y.lastKnown = none
          ∧ (x.retirePending = true → y.custody = .outbound)
          ∧ (x.retirePending = false → y.custody = .stored ∨ y.custody = .allotted)
          ∧ (x.held = .holdPending → y.held = .held) ∧ (x.held ≠ .holdPending → y.held = x.held)
          ∧ t.acct.slot n = .occupied r ∧ Awaits t (.record r)
          ∧ OthersKept s t [r] ∧ Framed s t ∧ t.freeIndex = s.freeIndex)
      ∧ (∀ k : Scanner, place = 0x300 + k.val →
          ((s.acct.xu[k]).position = .empty ∨ (s.acct.xu[k]).position = .unknown) →
        ∃ t y, exec (.resolve p m id place) s = .next t
          ∧ Done s t p m .resolve { test := false, count := countCustody t.acct .unverified }
          ∧ t.acct.record r = some y
          ∧ y.aside = { x with custody := .issued, place := some (.tool k), lastKnown := none, holder := some k }.aside
          ∧ Awaits t (.record r) ∧ (t.acct.xu[k]).position ≠ .unknown
          ∧ OthersKept s t [r] ∧ Framed s t ∧ t.freeIndex = s.freeIndex))
    ∧ ∀ (s : State) (p : Port) (m : Byte) (k : Scanner), Runs s p m .clearExchange →
      (s.acct.xu[k]).position = .unknown →
      ∃ t, exec (.clearExchange p m k.val) s = .next t
        ∧ Done s t p m .clearExchange
            { test := decide ((t.acct.xu[k]).position = .opened), count := (s.acct.xu[k]).returnList.length }
        ∧ (if (s.acct.xu[k]).returnList ≠ [] ∧ (s.acct.xu[k]).interlock = false ∧ (s.acct.xu[k]).lapse = false then
            (t.acct.xu[k]).position = .opened
          else (t.acct.xu[k]).position = .empty ∨ (t.acct.xu[k]).position = .incoming)
        ∧ t.acct.records = s.acct.records ∧ t.acct.claims = s.acct.claims ∧ Framed s t ∧ t.store = s.store
        ∧ t.freeIndex = s.freeIndex

/-- In every state the part can come to, whatever commands it is given, a slot is OCCUPIED by a record exactly when that
slot is the record's place (R6, R108, R109). -/
def Obligations.OccupiedSlotsAreTheirRecordsPlaces : Prop := ∀ s : State, Reachable s → SlotsAgree s.acct

/-! ### The station's verdict -/

/-- RESULT for the record under inspection: a PASS clears counts, due and rejection, a FAIL rejects the record and
ends the claims waiting for it; the station is FINISHED (R137 to R139, R141). The verdicts' codes are R137's order. -/
def Obligations.ResultGivesTheVerdict : Prop :=
  ∀ (s : State) (m : Byte) (chars : List Byte) (id : Ident) (verdict defect r : Nat) (x : Record),
    Runs s .ins m .result → reportedIdent chars = some id → Names s id r x → s.acct.qu.station = .inspecting r →
    verdict ≤ 1 → defect ≤ 15 → QueueWaiting s.acct x →
    ∃ t y, exec (.result .ins m chars verdict defect) s = .next t
      ∧ Done s t .ins m .result
          { test := decide (verdict = 0), count := if verdict = 0 then 0 else x.claimQueue.length }
      ∧ t.acct.record r = some y ∧ Awaits t (.record r)
      ∧ (verdict = 0 →
          KeepsRecord
            { x with
              lastInspection := some { verdict := .pass, defect := defect }
              expCount := 0, age := 0, due := false, rejected := false } y)
      ∧ (verdict = 1 →
          KeepsRecord { x with lastInspection := some { verdict := .fail, defect := defect }, rejected := true } y
            ∧ ∀ c ∈ x.claimQueue, Table.lookup t.acct.claims c = none)
      ∧ t.acct.qu.station = .finished (some r) ∧ t.acct.qu.watchdog = none
      ∧ t.acct.qu.abandoned = s.acct.qu.abandoned
      ∧ OthersKept s t [r] ∧ Framed s t ∧ t.freeIndex = s.freeIndex

/-! ### Settings -/

/-- SET_TOOL replaces the settings given; a scanner disabled by it has every open claim ended (R45, R103). Enabled is
sent as yes 0, no 1 (log 13, DESIGN CHOICE). At a scanner already disabled, enabled no leaves a set lapse as it is
(log 38, DESIGN CHOICE) and ends no claim (log 33). Both are the model's own. -/
def Obligations.SetToolReplacesTheSettings : Prop :=
  ∀ (s : State) (p : Port) (m : Byte) (k : Scanner) (enabled capacity : Option Nat) (new : ToolSettings),
    Runs s p m .setTool → s.acct.Canonical → (∀ v, enabled = some v → v ≤ 1) →
    (∀ v, capacity = some v → 1 ≤ v ∧ v ≤ 12) →
    new =
      { enabled := match enabled with
          | some v => decide (v = 0)
          | none => (s.acct.settings.tools[k]).enabled
        capacity := capacity.getD (s.acct.settings.tools[k]).capacity } →
    ∃ t, exec (.setTool p m k.val enabled capacity) s = .next t
      ∧ Done s t p m .setTool { test := new.enabled, count := t.acct.libraryLoad k }
      ∧ t.acct.settings = { s.acct.settings with tools := s.acct.settings.tools.set k new }
      ∧ (new ≠ s.acct.settings.tools[k] → Awaits t .header)
      ∧ (new = s.acct.settings.tools[k] → OnlyAnswered s t)
      ∧ ((s.acct.settings.tools[k]).enabled = true → new.enabled = false →
          ∀ c y, Table.lookup t.acct.claims c = some y → y.tool ≠ k)
      ∧ (∀ c y, Table.lookup s.acct.claims c = some y →
          y.tool ≠ k ∨ (s.acct.settings.tools[k]).enabled = false ∨ new.enabled = true →
          ∃ z, Table.lookup t.acct.claims c = some z ∧ z.terms = y.terms)
      ∧ t.acct.up = s.acct.up ∧ t.acct.grace = s.acct.grace ∧ ArrayKept s.store t.store ∧ t.freeIndex = s.freeIndex

/-- SET_TIMERS replaces the limits given and touches no running timer; SET_RESERVE replaces the reserve and judges the
gate (R116, R117, R184). -/
def Obligations.SetTimersAndSetReserveReplace : Prop :=
  (∀ (s : State) (p : Port) (m : Byte) (a b c d e : Option Nat), Runs s p m .setTimers →
      (∀ v, a = some v → 10 ≤ v ∧ v ≤ 3600) → (∀ v, b = some v → 5 ≤ v ∧ v ≤ 600) →
      (∀ v, c = some v → 5 ≤ v ∧ v ≤ 600) → (∀ v, d = some v → 10 ≤ v ∧ v ≤ 3600) →
      (∀ v, e = some v → 60 ≤ v ∧ v ≤ 7200) →
      ∃ t, exec (.setTimers p m a b c d e) s = .next t
        ∧ Done s t p m .setTimers
            { test := a.isSome || b.isSome || c.isSome || d.isSome || e.isSome
              count := limitChange s.acct.settings.takeLimit a + limitChange s.acct.settings.holdLimit b
                + limitChange s.acct.settings.watchdogLimit c + limitChange s.acct.settings.graceLimit d
                + limitChange s.acct.settings.stationLimit e }
        ∧ t.acct =
            { s.acct with
              settings :=
                { s.acct.settings with
                  takeLimit := a.getD s.acct.settings.takeLimit, holdLimit := b.getD s.acct.settings.holdLimit
                  watchdogLimit := c.getD s.acct.settings.watchdogLimit
                  graceLimit := d.getD s.acct.settings.graceLimit
                  stationLimit := e.getD s.acct.settings.stationLimit } }
        ∧ ((a.isSome || b.isSome || c.isSome || d.isSome || e.isSome) = true → Awaits t .header)
        ∧ ArrayKept s.store t.store ∧ t.freeIndex = s.freeIndex)
    ∧ ∀ (s : State) (p : Port) (m : Byte) (n : Nat), Runs s p m .setReserve → n ≤ 64 →
      ∃ t, exec (.setReserve p m n) s = .next t
        ∧ Done s t p m .setReserve { test := decide (n < s.acct.freeSlots), count := s.acct.freeSlots }
        ∧ t.acct.settings = { s.acct.settings with reserve := n }
        ∧ t.acct.sm = { s.acct.sm with gateOpen := decide (n < s.acct.freeSlots) }
        ∧ { t.acct with settings := s.acct.settings, sm := s.acct.sm, notices := s.acct.notices } = s.acct
        ∧ (n ≠ s.acct.settings.reserve → Awaits t .header) ∧ ArrayKept s.store t.store ∧ t.freeIndex = s.freeIndex

/-- SET_DEFAULTS (R126): values out of range are MALFORMED; fields given replace the defaults, at once and for every
record that follows them, with no comparison; FORMAT's defaults are 50,000 and 10,080. -/
def Obligations.SetDefaultsReplacesTheDefaults : Prop :=
  Settings.format.defaultExpLimit = 50000 ∧ Settings.format.defaultAgeLimit = 10080
    ∧ ∀ (s : State) (p : Port) (m : Byte) (e g : Option Nat), Runs s p m .setDefaults →
      ((∃ v, (e = some v ∨ g = some v) ∧ (v < 1 ∨ 16777215 < v)) →
        ∃ t, exec (.setDefaults p m e g) s = .next t
          ∧ Answered s t p Code.setDefaults.byte .malformed (effectP m (s.io p).flagP false)
              (effectN m (s.io p).flagN 0) false 0 .nothing
          ∧ OnlyAnswered s t)
      ∧ ((∀ v, e = some v ∨ g = some v → 1 ≤ v ∧ v ≤ 16777215) →
        ∃ t, exec (.setDefaults p m e g) s = .next t
          ∧ Done s t p m .setDefaults
              { test := e.isSome || g.isSome
                count := s.acct.records.countP (fun q => q.2.expLimit.isNone || q.2.ageLimit.isNone) }
          ∧ t.acct =
              { s.acct with
                settings :=
                  { s.acct.settings with
                    defaultExpLimit := e.getD s.acct.settings.defaultExpLimit
                    defaultAgeLimit := g.getD s.acct.settings.defaultAgeLimit } }
          ∧ (∀ x : Record, x.expLimit = none → t.acct.effExp x = e.getD s.acct.settings.defaultExpLimit)
          ∧ (∀ x : Record, x.ageLimit = none → t.acct.effAge x = g.getD s.acct.settings.defaultAgeLimit)
          ∧ ((e.isSome || g.isSome) = true → Awaits t .header)
          ∧ ((e.isSome || g.isSome) = false → OnlyAnswered s t)
          ∧ ArrayKept s.store t.store ∧ t.freeIndex = s.freeIndex)

/-- START_SWEEP loads the sweep timer, STOP_SWEEP stops it, SET_SWEEP changes period and mode (R127, R129). The codes
of the modes are R127's order. -/
def Obligations.SweepRequestsSetTheTimer : Prop :=
  ∀ (s : State) (p : Port) (m : Byte),
    (Runs s p m .startSweep →
      ∃ t, exec (.startSweep p m) s = .next t
        ∧ Done s t p m .startSweep { test := true, count := s.acct.settings.sweepPeriod }
        ∧ t.acct =
            { s.acct with
              settings := { s.acct.settings with sweepRunning := true }
              qu := { s.acct.qu with sweepLoaded := some s.acct.settings.sweepPeriod, sweepCounted := 0 } }
        ∧ (s.acct.settings.sweepRunning = false → Awaits t .header)
        ∧ ArrayKept s.store t.store ∧ t.freeIndex = s.freeIndex)
    ∧ (Runs s p m .stopSweep → s.acct.settings.sweepRunning = true →
      ∃ t, exec (.stopSweep p m) s = .next t
        ∧ Done s t p m .stopSweep { test := true, count := s.acct.qu.sweepCounted / 60 }
        ∧ t.acct =
            { s.acct with
              settings := { s.acct.settings with sweepRunning := false }
              qu := { s.acct.qu with sweepLoaded := none, sweepCounted := 0 } }
        ∧ Awaits t .header ∧ ArrayKept s.store t.store ∧ t.freeIndex = s.freeIndex)
    ∧ (Runs s p m .stopSweep → s.acct.settings.sweepRunning = false →
      ∃ t, exec (.stopSweep p m) s = .next t
        ∧ Done s t p m .stopSweep { test := false, count := 0 } ∧ OnlyAnswered s t)
    ∧ (∀ period mode new, Runs s p m .setSweep → (∀ v, period = some v → 1 ≤ v ∧ v ≤ 65535) →
        (mode = none ∧ new = s.acct.settings.sweepMode ∨ mode = some 0 ∧ new = .oneShot
          ∨ mode = some 1 ∧ new = .periodic) →
      ∃ t, exec (.setSweep p m period mode) s = .next t
        ∧ Done s t p m .setSweep
            { test := s.acct.settings.sweepRunning, count := period.getD s.acct.settings.sweepPeriod }
        ∧ t.acct =
            { s.acct with
              settings :=
                { s.acct.settings with
                  sweepPeriod := period.getD s.acct.settings.sweepPeriod, sweepMode := new } }
        ∧ (t.acct.settings ≠ s.acct.settings → Awaits t .header)
        ∧ ArrayKept s.store t.store ∧ t.freeIndex = s.freeIndex)

/-- CLOSE_RANGE and OPEN_RANGE rewrite a range and judge the gate; OUTTAKE_CLEARED empties the outtake port (R111,
R112, R115, R116). The complement is sent as yes 0, no 1 (log 13). -/
def Obligations.RangesAndOuttakeAreSet : Prop :=
  ∀ (s : State) (p : Port) (m : Byte),
    (∀ (i : Fin 4) first count complement, Runs s p m .closeRange → first < 768 → 1 ≤ count → first + count ≤ 768 →
      complement ≤ 1 →
      ∃ t, exec (.closeRange p m i.val first count complement) s = .next t
        ∧ Done s t p m .closeRange { test := t.acct.sm.gateOpen, count := t.acct.freeSlots }
        ∧ t.acct.settings =
            { s.acct.settings with
              ranges := s.acct.settings.ranges.set i
                { first := first, count := count, complement := decide (complement = 0), inForce := true } }
        ∧ t.acct.sm.gateOpen = decide (s.acct.settings.reserve < t.acct.freeSlots)
        ∧ Awaits t .header ∧ t.acct.records = s.acct.records ∧ t.acct.claims = s.acct.claims
        ∧ ArrayKept s.store t.store ∧ t.freeIndex = s.freeIndex)
    ∧ (∀ i : Fin 4, Runs s p m .openRange → (s.acct.settings.ranges[i]).inForce = true →
      ∃ t, exec (.openRange p m i.val) s = .next t
        ∧ Done s t p m .openRange { test := t.acct.sm.gateOpen, count := t.acct.freeSlots }
        ∧ t.acct.settings =
            { s.acct.settings with
              ranges := s.acct.settings.ranges.set i { s.acct.settings.ranges[i] with inForce := false } }
        ∧ t.acct.sm.gateOpen = decide (s.acct.settings.reserve < t.acct.freeSlots)
        ∧ Awaits t .header ∧ t.acct.records = s.acct.records ∧ t.acct.claims = s.acct.claims
        ∧ ArrayKept s.store t.store ∧ t.freeIndex = s.freeIndex)
    ∧ (∀ i : Fin 4, Runs s p m .openRange → (s.acct.settings.ranges[i]).inForce = false →
      ∃ t, exec (.openRange p m i.val) s = .next t
        ∧ Done s t p m .openRange { test := s.acct.sm.gateOpen, count := s.acct.freeSlots } ∧ OnlyAnswered s t)
    ∧ (Runs s p m .outtakeCleared → s.acct.sm.outtakeOccupied = true →
      ∃ t, exec (.outtakeCleared p m) s = .next t
        ∧ Done s t p m .outtakeCleared { test := true, count := countCustody s.acct .outbound }
        ∧ t.acct.sm.outtakeOccupied = false ∧ t.acct.records = s.acct.records ∧ t.acct.claims = s.acct.claims
        ∧ Framed s t ∧ t.store = s.store ∧ t.freeIndex = s.freeIndex)
    ∧ (Runs s p m .outtakeCleared → s.acct.sm.outtakeOccupied = false →
      ∃ t, exec (.outtakeCleared p m) s = .next t
        ∧ Done s t p m .outtakeCleared { test := false, count := countCustody s.acct .outbound }
        ∧ OnlyAnswered s t)

/-! ### The dispatch and the Retention Store -/

/-- PAUSE stops the offering of moves and takes back a STAGED one; RESUME makes the dispatch RUNNING again (R65, R78,
R79). -/
def Obligations.PauseAndResumeSetTheDispatch : Prop :=
  ∀ (s : State) (p : Port) (m : Byte),
    (Runs s p m .pause → s.acct.du.state = .running →
      ∃ t, exec (.pause p m) s = .next t
        ∧ Done s t p m .pause { test := true, count := t.acct.du.queue.length }
        ∧ t.acct.du.state = .paused ∧ t.acct.du.staged = none
        ∧ t.acct.du.queue.length = s.acct.du.queue.length + s.acct.du.staged.toList.length
        ∧ t.acct.records = s.acct.records ∧ t.acct.claims = s.acct.claims ∧ Framed s t ∧ t.store = s.store
        ∧ t.freeIndex = s.freeIndex)
    ∧ (Runs s p m .pause → s.acct.du.state ≠ .running →
      ∃ t, exec (.pause p m) s = .next t
        ∧ Done s t p m .pause { test := false, count := s.acct.du.queue.length } ∧ OnlyAnswered s t)
    ∧ (Runs s p m .resume → s.acct.du.state ≠ .running →
      ∃ t, exec (.resume p m) s = .next t
        ∧ Done s t p m .resume { test := true, count := t.acct.du.queue.length }
        ∧ t.acct.du.state = .running ∧ t.acct.records = s.acct.records ∧ t.acct.claims = s.acct.claims
        ∧ Framed s t ∧ t.store = s.store ∧ t.freeIndex = s.freeIndex)
    ∧ (Runs s p m .resume → s.acct.du.state = .running →
      ∃ t, exec (.resume p m) s = .next t
        ∧ Done s t p m .resume { test := false, count := s.acct.du.queue.length } ∧ OnlyAnswered s t)

/-- CLEAR ends every claim, makes the dispatch RUNNING, and clears the flags of every port before its own effect;
settings, links, timers of the links, ranges and the array stay. Records keep custody, place, holder, held and retire
pending, but for the untaken members ALLOTTED before their pick, which enter STORED. Every notice queue is emptied first
and holds the clear's own notices: at a tool port its CLAIM_ENDED notices in order of acceptance before all others, at
the supervisor port GATE notices alone, at the inspection port none, at the handler port the WITHDRAWN of a STAGED move
before all others (R10, R26, R43, R49, R83, R161, R181, R193). That an attention pulse runs on as its queue is emptied
(log 41, DESIGN CHOICE) and that the WITHDRAWN comes first (log 11, DESIGN CHOICE) are the model's own. -/
def Obligations.ClearEndsEveryClaim : Prop :=
  ∀ (s : State) (p : Port) (m : Byte), s.acct.Canonical → Runs s p m .clear →
    ∃ t, exec (.clear p m) s = .next t
      ∧ Done (clearFlags s) t p m .clear { test := true, count := s.acct.claims.length }
      ∧ (∀ q, q ≠ p → (t.io q).flagP = false ∧ (t.io q).flagN = false)
      ∧ t.acct.claims = [] ∧ t.acct.du.state = .running
      ∧ (∀ r, (t.acct.record r).isSome = (s.acct.record r).isSome)
      ∧ (∀ r x y, s.acct.record r = some x → t.acct.record r = some y →
          y.ident = x.ident ∧ y.expCount = x.expCount ∧ y.age = x.age ∧ y.due = x.due ∧ y.rejected = x.rejected
            ∧ y.place = x.place ∧ y.lastKnown = x.lastKnown ∧ y.returnRequested = x.returnRequested
            ∧ (x.custody ≠ .allotted →
                y.custody = x.custody ∧ y.holder = x.holder ∧ y.held = x.held ∧ y.retirePending = x.retirePending)
            ∧ (∀ c claim mem, x.custody = .allotted → Table.lookup s.acct.claims c = some claim →
                claim.state = .granted → mem ∈ claim.members → mem.taken = false → mem.record = some r →
                ((∀ mv, s.acct.du.taken = some mv → mv.subject ≠ some r) →
                  EntersStored x y ∧ y.custody ≠ .allotted)
                ∧ (∀ mv, s.acct.du.taken = some mv → mv.kind = .fetch → mv.subject = some r → mv.state = .active →
                  y.custody = .allotted ∧ y.holder = x.holder ∧ y.held = x.held
                    ∧ y.retirePending = x.retirePending))
            ∧ ((∀ c ∈ x.claimQueue, ∃ claim mem, Table.lookup s.acct.claims c = some claim ∧ claim.state = .waiting
                  ∧ mem ∈ claim.members ∧ mem.record = some r) →
                y.claimQueue = []))
      ∧ (∀ (k : Scanner) (l : List (Nat × Claim)),
          l.Perm (s.acct.claims.filter (fun q => decide (q.2.tool = k))) →
          l.Pairwise (fun a b => a.2.order < b.2.order) →
          ((l.map (fun q => Notice.claimEnded q.2.tag .cleared (q.2.members.countP (·.taken)))).take 8)
            <+: (t.acct.notices.get (.tool k)).queue)
      ∧ (∀ n ∈ (t.acct.notices.get .sup).queue, ∃ isOpen free reserve, n = .gate isOpen free reserve)
      ∧ (t.acct.notices.get .ins) =
          { s.acct.notices.get .ins with
            queue := [], overflow := false, summary := { info := false, attention := false, fault := false } }
      ∧ (∀ mv, s.acct.du.staged = some mv → [.withdrawn mv.number] <+: (t.acct.notices.get .hdl).queue)
      ∧ t.acct.qu.sweepLoaded = s.acct.qu.sweepLoaded ∧ t.acct.qu.sweepCounted = s.acct.qu.sweepCounted
      ∧ t.acct.qu.watchdog = s.acct.qu.watchdog ∧ t.acct.qu.abandoned = s.acct.qu.abandoned
      ∧ t.acct.sm.intake = s.acct.sm.intake ∧ t.acct.sm.outtakeOccupied = s.acct.sm.outtakeOccupied
      ∧ Framed s t ∧ t.freeIndex = s.freeIndex

/-- SYNC asks for the clean mark: met at once where the queue is drained, by a CLEAN notice, by a header that sets the
mark, or not at all where pages are owed; FORMAT of an empty table gives every setting its FORMAT value and begins the
format pass (R168, R173). The header's place is that of log 47 (DESIGN CHOICE), and
that an owed page decides where the mark is set too is log 52 (DESIGN CHOICE). -/
def Obligations.SyncAndFormatWriteBack : Prop :=
  ∀ (s : State) (p : Port) (m : Byte),
    (Runs s p m .sync →
      ∃ t, exec (.sync p m) s = .next t
        ∧ Done s t p m .sync { test := s.store.mark, count := s.store.queue.length }
        ∧ (s.store.drained = false → t.acct = s.acct ∧ t.store = { s.store with syncRequest := true })
        ∧ (s.store.drained = true → s.store.owed = [] → s.store.mark = true →
            t.store = { s.store with syncRequest := false }
              ∧ t.acct.notices.get .sup = (s.acct.notices.get .sup).enter (.retention .clean))
        ∧ (s.store.drained = true → s.store.owed = [] → s.store.mark = false →
            t.acct = s.acct
              ∧ t.store =
                  { s.store with
                    syncRequest := false
                    inFlight := some
                      { purpose := .page .header, place := s.store.placeOf .header,
                        image := .header s.acct.settings true, secondTry := false } })
        ∧ (s.store.drained = true → s.store.owed ≠ [] →
            t.store = { s.store with syncRequest := false }
              ∧ t.acct.notices.get .sup =
                  (s.acct.notices.get .sup).enter (.retention (.sparesExhausted none s.store.owed.length)))
        ∧ { t.acct with notices := s.acct.notices } = s.acct ∧ t.freeIndex = s.freeIndex)
    ∧ (Runs s p m .format → s.acct.records = [] → s.store.format = none →
      ∃ t, exec (.format p m) s = .next t
        ∧ Done s t p m .format { test := true, count := 64 }
        ∧ t.acct.settings = Settings.format ∧ t.acct.records = [] ∧ t.acct.claims = s.acct.claims
        ∧ t.acct.up = s.acct.up ∧ t.acct.grace = s.acct.grace
        ∧ t.store.queue = [] ∧ t.store.stage = none ∧ t.store.owed = [] ∧ t.store.spareMap = []
        ∧ t.store.headerPage = s.store.headerPage ∧ t.store.recordPages = s.store.recordPages
        ∧ t.store.sparePages = s.store.sparePages
        ∧ (s.store.inFlight = none →
            t.store.format = some .firstHeader
              ∧ t.store.inFlight = some
                  { purpose := .page .header, place := .own .header, image := .header .format false,
                    secondTry := false })
        ∧ (s.store.inFlight ≠ none → t.store.format = some .waiting ∧ t.store.inFlight = s.store.inFlight)
        ∧ t.freeIndex = s.freeIndex)

/-! ### Handler reports -/

/-- TAKE makes the STAGED move the taken one, ACTIVE, and starts the watchdog (R67, R77). The test and count of a
handler's answer are free values (log 28). -/
def Obligations.TakeAcceptsTheStagedMove : Prop :=
  ∀ (s : State) (m : Byte) (mv : Move), Runs s .hdl m .take → s.acct.du.taken = none → s.acct.du.staged = some mv →
    ∃ t test count, exec (.take .hdl m) s = .next t
      ∧ Done s t .hdl m .take
          { test := test, count := count,
            payload := .takenMove mv.number mv.kind (mv.subject.map s.acct.identOf) mv.source (Work.destPlace mv.dest) }
      ∧ t.acct.du.taken = some { mv with state := .active }
      ∧ t.acct.du.watchdog = some { count := 0, limit := s.acct.settings.watchdogLimit }
      ∧ OthersKept s t [] ∧ Framed s t ∧ t.store = s.store

/-- PICKED: of the move's own reticle, the record is IN_TRANSIT with the handler, its source place is emptied, and the
move goes on, waits at an asserted interlock, or, a FETCH whose claim has ended, is redirected to a slot; of another,
the pod goes back to its source, which is doubtful, and the move's record is UNVERIFIED, and so is the record whose
identity was read, its own place handed to its owner (R68, R69, R71, R94, R97, R145 to R148). -/
def Obligations.PickedMovesTheRecord : Prop :=
  ∀ (s : State) (m : Byte) (move : Nat) (mv : Move) (chars : List Byte) (id : Ident) (r : Nat) (x : Record),
    s.acct.Canonical → Runs s .hdl m .picked → Reports s move mv → mv.state = .active → mv.kind ≠ .verify →
    reportedIdent chars = some id → mv.subject = some r → s.acct.record r = some x →
    (x.ident = id →
      ∃ t y test count a, exec (.picked .hdl m move chars) s = .next t
        ∧ Done s t .hdl m .picked { test := test, count := count, payload := .answer a }
        ∧ t.acct.record r = some y
        ∧ y.aside =
            { x with
              custody := .inTransit, place := some .handler
              holder := if mv.kind = MoveKind.returnPod ∨ mv.kind = MoveKind.recover then none else x.holder
              retirePending := x.retirePending || decide (mv.kind = MoveKind.retire) }.aside
        ∧ Awaits t (.record r)
        ∧ (∀ n, mv.source = .slot n → t.acct.slot n = .empty ∨ ∃ mv', t.acct.slot n = .expected mv')
        ∧ (mv.source = .intakePort → t.acct.sm.intake = .empty)
        ∧ (∀ k : Scanner, mv.source = .exchange k → mv.kind ≠ .fetch →
            PositionLeft s t k ∧ (mv.kind = .returnPod → Tells s t (.tool k) [.returned id]))
        ∧ (mv.source = .station → t.acct.qu.station = .empty ∨ t.acct.qu.station = .expected)
        ∧ (mv.kind ≠ .fetch →
            a = .proceed ∧ t.acct.du.taken = some { mv with state := .carrying }
              ∧ t.acct.du.watchdog = some { count := 0, limit := s.acct.settings.watchdogLimit })
        ∧ (∀ k n, mv.kind = .fetch → fetchEnded mv = false → mv.dest = .at (.exchange k) → mv.source = .slot n →
            if (s.acct.xu[k]).interlock = true then
              a = .wait ∧ t.acct.du.taken = some { mv with state := .holding .interlock }
                ∧ t.acct.du.watchdog = none
                ∧ (t.acct.xu[k]).hold = some { count := 0, limit := s.acct.settings.holdLimit }
            else
              a = .proceed ∧ t.acct.du.taken = some { mv with state := .carrying }
                ∧ t.acct.du.watchdog = some { count := 0, limit := s.acct.settings.watchdogLimit })
        ∧ (∀ k n, mv.kind = .fetch → fetchEnded mv = true → mv.dest = .at (.exchange k) → mv.source = .slot n →
            ∃ d, a = .redirect d
              ∧ t.acct.du.taken = some { mv with dest := .at (.slot d), state := .carrying, leftSlots := mv.leftSlots }
              ∧ t.acct.slot d = .expected move)
        ∧ OthersKept s t [r] ∧ Framed s t)
    ∧ (x.ident ≠ id →
      ∃ t y z test count, exec (.picked .hdl m move chars) s = .next t
        ∧ Done s t .hdl m .picked
            { test := test, count := count, payload := .answer (.returnToSource mv.source) }
        ∧ t.acct.record r = some y ∧ y.custody = .unverified ∧ y.place = none ∧ y.lastKnown = some mv.source
        ∧ y.holder = none ∧ y.ident = x.ident ∧ Awaits t (.record r)
        ∧ t.acct.du.taken = some z ∧ z.number = move ∧ z.subject = none ∧ z.dest = .at mv.source
        ∧ z.state = .carrying ∧ z.returning = true
        ∧ (∀ n, mv.source = .slot n → t.acct.slot n = .unknown)
        ∧ (mv.source = .intakePort → t.acct.sm.intake = .unknown)
        ∧ (∀ k : Scanner, mv.source = .exchange k → (t.acct.xu[k]).position = .unknown)
        ∧ (mv.source = .station → (∀ q u, s.acct.record q = some u → u.place = some .station → q = r) →
            t.acct.qu.station = .finished none)
        ∧ Tells s t .sup [.unverified x.ident r .mismatch mv.source (some mv.source) (some move)]
        ∧ (∀ q u, s.acct.findIdent id = some (q, u) →
            ∃ v, t.acct.record q = some v ∧ v.custody = .unverified ∧ v.lastKnown = some mv.source
              ∧ v.ident = id ∧ Awaits t (.record q)
              ∧ (u.custody ≠ .unverified → v.place = none ∧ v.holder = none)
              ∧ (∀ n, u.custody ≠ .unverified → u.place = some (.slot n) → t.acct.slot n = .unknown)
              ∧ Tells s t .sup
                  [.unverified x.ident r .mismatch mv.source (some mv.source) (some move),
                    .unverified id q .readElsewhere mv.source (some mv.source) (some move)])
        ∧ Framed s t)

/-- PLACED ends the move and gives the record its new place: in a slot, where it enters STORED unless it is a RETIRE's
or a FETCH's under its open claim, at an exchange position, at the station; a RETIRE's record leaves the part. A
returning move ends without a record: the chosen slot of a redirected one becomes UNKNOWN, and a source station EMPTY
(R10, R11, R73, R87, R136, R149). -/
def Obligations.PlacedEndsTheMove : Prop :=
  (∀ (s : State) (m : Byte) (move : Nat) (mv : Move) (r : Nat) (x : Record),
    Runs s .hdl m .placed → Reports s move mv → mv.state = .carrying →
    mv.returning = false → mv.subject = some r → s.acct.record r = some x →
    ∃ t test count, exec (.placed .hdl m move) s = .next t
      ∧ Done s t .hdl m .placed { test := test, count := count }
      ∧ t.acct.du.taken = none ∧ t.acct.du.watchdog = none
      ∧ (∀ n, mv.dest = .at (.slot n) →
          ∃ y, t.acct.record r = some y ∧ y.place = some (.slot n) ∧ t.acct.slot n = .occupied r
            ∧ (mv.kind = .retire → y.custody = .outbound)
            ∧ (mv.kind = .fetch → fetchEnded mv = false → y.custody = .allotted ∧ y.holder = x.holder)
            ∧ (mv.kind ≠ .retire → (mv.kind = .fetch → fetchEnded mv = true) → EntersStored x y)
            ∧ (mv.kind ≠ .retire → mv.kind ≠ .fetch →
                y.custody = .stored ∨ y.custody = .allotted ∨ x.retirePending = true ∧ y.custody = .outbound))
      ∧ (∀ k : Scanner, mv.dest = .at (.exchange k) →
          ∃ y, t.acct.record r = some y
            ∧ y.aside = { x with custody := .presented, place := some (.exchange k) }.aside
            ∧ (mv.cause.bind (·.ended) = none →
                (t.acct.xu[k]).position = .presented r
                  ∧ (t.acct.xu[k]).timer = some { count := 0, limit := s.acct.settings.takeLimit })
            ∧ (mv.cause.bind (·.ended) ≠ none →
                (t.acct.xu[k]).position = .recalled r ∧ (t.acct.xu[k]).timer = none))
      ∧ (mv.dest = .at .station →
          (∃ y, t.acct.record r = some y
            ∧ y.aside = { x with custody := .atStation, place := some .station }.aside)
            ∧ t.acct.qu.station = .inspecting r ∧ t.acct.qu.abandoned = none
            ∧ t.acct.qu.watchdog = some { count := 0, limit := s.acct.settings.stationLimit })
      ∧ (mv.dest = .at .outtakePort → t.acct.record r = none ∧ t.acct.sm.outtakeOccupied = true)
      ∧ (mv.dest ≠ .choose → mv.dest ≠ .absent → (∀ k, mv.dest ≠ .at (.tool k)) → mv.dest ≠ .at .handler →
          mv.dest ≠ .at .intakePort → Awaits t (.record r))
      ∧ OthersKept s t [r] ∧ Framed s t)
  ∧ ∀ (s : State) (m : Byte) (move : Nat) (mv : Move),
    Runs s .hdl m .placed → Reports s move mv → mv.state = .carrying → mv.returning = true →
    ∃ t test count, exec (.placed .hdl m move) s = .next t
      ∧ Done s t .hdl m .placed { test := test, count := count }
      ∧ t.acct.du.taken = none ∧ t.acct.du.watchdog = none
      ∧ (∀ n, mv.dest = .at (.slot n) → s.acct.slot n = .expected move → t.acct.slot n = .unknown)
      ∧ (∀ n, mv.dest ≠ .at (.slot n) ∨ s.acct.slot n ≠ .expected move → s.acct.slot n = .empty ∨
          t.acct.slot n = s.acct.slot n)
      ∧ (mv.source = .station → s.acct.qu.station = .finished none →
          t.acct.qu.station = .empty ∨ t.acct.qu.station = .expected)
      ∧ (∀ k : Scanner, (s.acct.xu[k]).position = .unknown → (t.acct.xu[k]).position = .unknown)
      ∧ t.acct.sm.intake = s.acct.sm.intake
      ∧ OthersKept s t [] ∧ Framed s t ∧ t.store = s.store

/-- READ ends a VERIFY: what is read settles the slot, and a record believed there and not found is UNVERIFIED. The
identity of another UNVERIFIED record settles that record in the slot, where it enters STORED; that of a record settled
elsewhere puts both records, and both slots, in doubt (R10, R74, R121). That the UNVERIFIED notice of a read carries the
move number is the model's own (log 51, DESIGN CHOICE). -/
def Obligations.ReadSettlesTheSlot : Prop :=
  ∀ (s : State) (m : Byte) (move n : Nat) (mv : Move) (found : ReadReport),
    Runs s .hdl m .read → Reports s move mv → mv.state = .active → mv.kind = .verify → mv.source = .slot n →
    (∀ chars, found = .ident chars → (reportedIdent chars).isSome = true) →
    ∃ t test count, exec (.read .hdl m move found) s = .next t
      ∧ Done s t .hdl m .read { test := test, count := count }
      ∧ t.acct.du.taken = none ∧ t.acct.du.watchdog = none
      ∧ (found = .unreadable → t.acct.slot n = .foreign)
      ∧ (found = .empty → t.acct.slot n = .empty ∨ ∃ mv', t.acct.slot n = .expected mv')
      ∧ (∀ chars id, found = .ident chars → reportedIdent chars = some id → s.acct.findIdent id = none →
          t.acct.slot n = .foreign)
      ∧ (∀ chars id r x, found = .ident chars → reportedIdent chars = some id → Names s id r x →
          s.acct.slot n = .occupied r → t.acct.slot n = .occupied r)
      ∧ (∀ r x, s.acct.slot n = .occupied r → s.acct.record r = some x → found = .unreadable ∨ found = .empty →
          ∃ y, t.acct.record r = some y ∧ y.custody = .unverified ∧ y.place = none ∧ y.holder = none
            ∧ y.lastKnown = (if found = .unreadable then some (.slot n) else none) ∧ y.ident = x.ident
            ∧ Awaits t (.record r))
      ∧ (∀ chars id q u, found = .ident chars → reportedIdent chars = some id → Names s id q u →
          s.acct.slot n ≠ .occupied q →
          ∃ v, t.acct.record q = some v ∧ v.ident = id ∧ Awaits t (.record q)
            ∧ (u.custody = .unverified →
                t.acct.slot n = .occupied q ∧ v.place = some (.slot n) ∧ v.lastKnown = none
                  ∧ (u.holder = none → EntersStored u v))
            ∧ (u.custody ≠ .unverified →
                t.acct.slot n = .unknown ∧ v.custody = .unverified ∧ v.place = none ∧ v.holder = none
                  ∧ v.lastKnown = u.place
                  ∧ (∀ n', u.place = some (.slot n') → t.acct.slot n' = .unknown)
                  ∧ Tells s t .sup [.unverified id q .auditConflict (.slot n) u.place (some move)])
            ∧ ∀ r x, s.acct.slot n = .occupied r → s.acct.record r = some x →
                ∃ y, t.acct.record r = some y ∧ y.custody = .unverified ∧ y.place = none ∧ y.holder = none
                  ∧ y.lastKnown = (if u.custody = .unverified then none else some (.slot n)) ∧ y.ident = x.ident
                  ∧ Awaits t (.record r))
      ∧ Framed s t

/-- PROGRESS (R75). The test and count of its answer are free values (log 28). -/
def Obligations.ProgressRestartsTheWatchdog : Prop :=
  ∀ (s : State) (m : Byte) (move : Nat) (mv : Move), Runs s .hdl m .progress → Reports s move mv →
    ∃ t test count, exec (.progress .hdl m move) s = .next t
      ∧ Done s t .hdl m .progress { test := test, count := count }
      ∧ (mv.state = .active ∨ mv.state = .carrying →
          t.acct =
            { s.acct with
              du := { s.acct.du with watchdog := some { count := 0, limit := s.acct.settings.watchdogLimit } } })
      ∧ ((∃ cause, mv.state = .holding cause) → t.acct = s.acct)
      ∧ t.store = s.store

/-- FAULT: PICK_FAILED ends the move with its record UNVERIFIED at its source; PLACE_BLOCKED redirects the carried pod,
marks the place it was bound for, tells the supervisor, and at an exchange position ends the open claim FAILED, the
record staying IN_TRANSIT; a returning move's chosen slot is UNKNOWN and its source station EMPTY; MECHANICAL ends the
move, stops the dispatch FAULTED and takes back the STAGED move (R71, R76, R149 to R152). -/
def Obligations.FaultsLeaveRecordsInDoubt : Prop :=
  ∀ (s : State) (m : Byte) (move : Nat) (mv : Move), Runs s .hdl m .fault → Reports s move mv →
    (∀ r x, mv.state = .active → mv.kind ≠ .verify → mv.subject = some r → s.acct.record r = some x →
      ∃ t y test count, exec (.faultPickFailed .hdl m move) s = .next t
        ∧ Done s t .hdl m .fault { test := test, count := count }
        ∧ t.acct.du.taken = none ∧ t.acct.du.watchdog = none
        ∧ t.acct.record r = some y ∧ y.custody = .unverified ∧ y.place = none ∧ y.lastKnown = some mv.source
        ∧ y.holder = none ∧ y.ident = x.ident ∧ Awaits t (.record r) ∧ Framed s t)
    ∧ (∀ n, mv.state = .carrying → mv.returning = false → mv.dest = .at (.slot n) →
      ∃ t z test count a, exec (.faultPlaceBlocked .hdl m move) s = .next t
        ∧ Done s t .hdl m .fault { test := test, count := count, payload := .answer a }
        ∧ t.acct.slot n = .unknown ∧ t.acct.du.taken = some z ∧ z.number = move ∧ n ∈ z.leftSlots
        ∧ (∀ d, a = .redirect d → d ≠ n ∧ z.dest = .at (.slot d) ∧ z.state = .carrying
            ∧ t.acct.slot d = .expected move)
        ∧ ((∀ d, a ≠ .redirect d) → a = .wait)
        ∧ t.acct.records = s.acct.records ∧ t.acct.claims = s.acct.claims ∧ Framed s t ∧ t.store = s.store)
    ∧ (mv.state = .carrying → OwnNumber s move →
      ∃ t test count a slot, exec (.faultPlaceBlocked .hdl m move) s = .next t
        ∧ Done s t .hdl m .fault { test := test, count := count, payload := .answer a }
        ∧ a = (match slot with
            | some d => Answer.redirect d
            | none => .wait)
        ∧ Redirected t move
        ∧ (∀ d, slot = some d → t.acct.slot d = .expected move
            ∧ ∃ z, t.acct.du.taken = some z ∧ z.dest = .at (.slot d) ∧ z.state = .carrying)
        ∧ (∀ place, mv.dest = .at place →
            Tells s t .sup [.blocked move mv.kind (mv.subject.map s.acct.identOf) place slot])
        ∧ (mv.returning = false →
            (∀ n, mv.dest = .at (.slot n) → t.acct.slot n = .unknown)
            ∧ (∀ k : Scanner, mv.dest = .at (.exchange k) → (t.acct.xu[k]).position = .unknown
                ∧ (t.acct.xu[k]).timer = none)
            ∧ (mv.dest = .at .station → t.acct.qu.station = .empty ∨ t.acct.qu.station = .expected)
            ∧ (mv.dest = .at .outtakePort → t.acct.sm.outtakeOccupied = true))
        ∧ (mv.returning = true →
            (∀ n, mv.dest = .at (.slot n) → s.acct.slot n = .expected move ∨ s.acct.slot n = .unknown →
              t.acct.slot n = .unknown)
            ∧ (mv.source = .station → s.acct.qu.station = .finished none →
              t.acct.qu.station = .empty ∨ t.acct.qu.station = .expected))
        ∧ (∀ (k : Scanner) r c claim, mv.dest = .at (.exchange k) → mv.subject = some r →
            s.acct.grantedFor r = some (c, claim) →
            Table.lookup t.acct.claims c = none
              ∧ Tells s t (.tool claim.tool) [.claimEnded claim.tag .failed (claim.members.countP (·.taken))])
        ∧ (∀ r x, mv.subject = some r → s.acct.record r = some x → x.custody = .inTransit →
            ∃ y, t.acct.record r = some y ∧ y.aside = x.aside)
        ∧ ((∀ (k : Scanner) r, mv.dest = .at (.exchange k) → mv.subject = some r → s.acct.grantedFor r = none) →
            t.acct.records = s.acct.records ∧ t.acct.claims = s.acct.claims ∧ t.store = s.store)
        ∧ Framed s t)
    ∧ ∃ t test count, exec (.faultMechanical .hdl m move) s = .next t
        ∧ Done s t .hdl m .fault { test := test, count := count }
        ∧ t.acct.du.state = .faulted ∧ t.acct.du.taken = none ∧ t.acct.du.staged = none
        ∧ t.acct.du.watchdog = none
        ∧ (∀ r x, mv.returning = false → mv.kind ≠ .verify → mv.subject = some r → s.acct.record r = some x →
            ∃ y, t.acct.record r = some y ∧ y.custody = .unverified ∧ y.place = none ∧ y.holder = none
              ∧ y.lastKnown = some (if mv.state = .active then mv.source else .handler) ∧ y.ident = x.ident
              ∧ Awaits t (.record r))
        ∧ Framed s t

/-! ### Links and lines -/

/-- FRAME_COMPLETE and CHARACTER_RECEIVED: a frame whose CRC matches is taken, held while the port is answering, or
discarded; characters collect from SYNC on. LENGTH, code, MODIFIER, payload and the two CRC characters of them all are
a frame, and with any other CRC none; the last character of a frame does what FRAME_COMPLETE of that frame does (R178,
R179). -/
def Obligations.FramesAreTakenHeldOrDiscarded : Prop :=
  (∀ (n code modifier : Byte) (payload crc : List Byte), payload.length ≤ 248 →
    n = BitVec.ofNat 8 (payload.length + 2) →
    frameOf (n :: code :: modifier :: payload ++ crc) =
      if crc = crcChars (n :: code :: modifier :: payload) then
        some { code := code, modifier := modifier, payload := payload }
      else none)
  ∧ ∀ (s : State) (p : Port), s.power = .running → s.acct.up.get p = true →
    (p = .sup → s.links.addressed = true) →
    (∀ f : Frame, f.payload.length ≤ 248 →
      exec (.frameComplete p f) s = .next ((s.setReader p .hunting).deliver p f)
      ∧ ((s.io p).answering = none →
        exec (.frameComplete p f) s = .next ((s.setReader p .hunting).takeFrame p f)
          ∧ (f.code = Code.fetchNotice.byte → f.payload = [] →
              exec (.frameComplete p f) s = exec (.fetchNotice p f.modifier) (s.setReader p .hunting))
          ∧ (f.code = Code.query.byte → f.payload.length = 12 →
              exec (.frameComplete p f) s = exec (.query p f.modifier f.payload) (s.setReader p .hunting)))
      ∧ ((s.io p).answering ≠ none → (s.io p).heldFrame = none →
        ∃ t, exec (.frameComplete p f) s = .next t
          ∧ t.io p = { s.io p with reader := .hunting, heldFrame := some f }
          ∧ (∀ q, q ≠ p → t.io q = s.io q) ∧ OnlyAnswered s t)
      ∧ ((s.io p).answering ≠ none → (s.io p).heldFrame ≠ none →
        ∃ t, exec (.frameComplete p f) s = .next t
          ∧ t.io p = { s.io p with reader := .hunting }
          ∧ (∀ q, q ≠ p → t.io q = s.io q) ∧ OnlyAnswered s t))
    ∧ ∀ c : Byte,
      ((s.io p).reader = .hunting →
        exec (.characterReceived p c) s = .next (if c = 0x5A then s.setReader p (.collecting []) else s))
      ∧ ((s.io p).reader = .collecting [] →
        exec (.characterReceived p c) s =
          .next (s.setReader p (if 2 ≤ c.toNat ∧ c.toNat ≤ 250 then .collecting [c] else .hunting)))
      ∧ (∀ n rest, (s.io p).reader = .collecting (n :: rest) → 2 ≤ n.toNat → n.toNat ≤ 250 →
          (rest.length + 1 < n.toNat + 2 →
            exec (.characterReceived p c) s = .next (s.setReader p (.collecting (n :: rest ++ [c]))))
          ∧ (rest.length + 1 = n.toNat + 2 →
            (frameOf (n :: rest ++ [c]) = none → exec (.characterReceived p c) s = .next (s.setReader p .hunting))
            ∧ ∀ f, frameOf (n :: rest ++ [c]) = some f →
                exec (.characterReceived p c) s = .next ((s.setReader p .hunting).deliver p f)
                  ∧ exec (.characterReceived p c) s = exec (.frameComplete p f) s))

/-- A broken or delayed frame is discarded; an address character addresses the supervisor port or not, discarding the
frame in progress, and, at another's address, a held frame (R175, R176, R178). That it changes nothing while the link is
DOWN is the model's own (log 50, DESIGN CHOICE). -/
def Obligations.BrokenFramesAreDiscarded : Prop :=
  ∀ (s : State) (p : Port), s.power = .running ∨ s.power = .reloading →
    exec (.framingError p) s = .next (s.setReader p .hunting)
      ∧ exec (.frameGapTimeout p) s = .next (s.setReader p .hunting)
      ∧ ((s.setReader p .hunting).io p = { s.io p with reader := .hunting })
      ∧ (∀ q, q ≠ p → (s.setReader p .hunting).io q = s.io q) ∧ OnlyAnswered s (s.setReader p .hunting)
      ∧ (∀ c : Byte, s.acct.up.sup = false → exec (.addressCharacter c) s = .next s)
      ∧ ∀ c : Byte, s.acct.up.sup = true →
        ∃ t, exec (.addressCharacter c) s = .next t
          ∧ t.links.addressed = decide (c.setWidth 4 = s.links.station)
          ∧ (t.io .sup).reader = .hunting
          ∧ (t.io .sup).heldFrame = (if c.setWidth 4 = s.links.station then (s.io .sup).heldFrame else none)
          ∧ (t.io .sup).answering = (s.io .sup).answering
          ∧ (t.io .sup).flagP = (s.io .sup).flagP ∧ (t.io .sup).flagN = (s.io .sup).flagN
          ∧ (∀ q, q ≠ .sup → t.io q = s.io q) ∧ t.links.station = s.links.station
          ∧ OnlyAnswered s t ∧ t.pending = s.pending ∧ t.power = s.power

/-- RESPONSE_SENT frees the port and takes a held frame; a link coming UP or going DOWN changes its own port and, on a
tool port, its grace timer (R154, R177, R179, R181, R193). -/
def Obligations.LinksComeAndGo : Prop :=
  ∀ (s : State) (p : Port), s.power = .running →
    ((s.io p).answering ≠ none → (s.io p).heldFrame = none →
      ∃ t, exec (.responseSent p) s = .next t ∧ t.io p = { s.io p with answering := none }
        ∧ (∀ q, q ≠ p → t.io q = s.io q) ∧ OnlyAnswered s t)
    ∧ (∀ f, (s.io p).answering ≠ none → (s.io p).heldFrame = some f →
      exec (.responseSent p) s =
        .next ((s.onIo p (fun io => { io with answering := none, heldFrame := none })).takeFrame p f))
    ∧ (s.acct.up.get p = false →
      ∃ t, exec (.linkUp p) s = .next t ∧ t.links = s.links
        ∧ t.acct.up.get p = true ∧ (∀ q, q ≠ p → t.acct.up.get q = s.acct.up.get q)
        ∧ (∀ k, p = .tool k → t.acct.grace[k] = none)
        ∧ (∀ k : Scanner, p ≠ .tool k → t.acct.grace[k] = s.acct.grace[k])
        ∧ OthersKept s t [] ∧ t.acct.settings = s.acct.settings ∧ t.store = s.store ∧ t.freeIndex = s.freeIndex)
    ∧ (s.acct.up.get p = true →
      ∃ t, exec (.linkDown p) s = .next t
        ∧ t.io p = { s.io p with reader := .hunting, heldFrame := none, flagP := false, flagN := false }
        ∧ (∀ q, q ≠ p → t.io q = s.io q)
        ∧ t.links.addressed = (s.links.addressed && decide (p ≠ .sup))
        ∧ t.acct.up.get p = false ∧ (∀ q, q ≠ p → t.acct.up.get q = s.acct.up.get q)
        ∧ (∀ k, p = .tool k → t.acct.grace[k] = some { count := 0, limit := s.acct.settings.graceLimit })
        ∧ (∀ k : Scanner, p ≠ .tool k → t.acct.grace[k] = s.acct.grace[k])
        ∧ (t.acct.notices.get p).mode = .level
        ∧ (t.acct.notices.get p).mask = { info := true, attention := true, fault := true }
        ∧ (s.acct.notices.get p).queue <+: (t.acct.notices.get p).queue
        ∧ { t.acct with up := s.acct.up, grace := s.acct.grace, notices := s.acct.notices } = s.acct
        ∧ t.store = s.store ∧ t.freeIndex = s.freeIndex)

/-- An interlock's assertion changes its level alone; its clearing releases a pod waiting at it, the handler told with
PROCEED, or opens an EMPTY position with returns listed, the scanner told with ACCESS; a clearing of a clear interlock
changes nothing, which is the model's own (log 9, DEDUCED); a pulse's end releases its output (R70, R94, R99, R100,
R192). -/
def Obligations.InterlocksAndPulsesChange : Prop :=
  ∀ s : State, s.power = .running →
    (∀ k : Scanner, exec (.interlockAssertion k) s =
        .next { s with acct := { s.acct with xu := s.acct.xu.set k { s.acct.xu[k] with interlock := true } } })
    ∧ (∀ k : Scanner, (s.acct.xu[k]).interlock = false → exec (.interlockClearing k) s = .next s)
    ∧ (∀ k : Scanner, (s.acct.xu[k]).interlock = true →
      ∃ t, exec (.interlockClearing k) s = .next t ∧ t.links = s.links
        ∧ (t.acct.xu[k]).interlock = false
        ∧ (∀ l : Scanner, l ≠ k → (t.acct.xu[l]).interlock = (s.acct.xu[l]).interlock)
        ∧ (∀ r rest, (s.acct.xu[k]).position = .empty → (s.acct.xu[k]).returnList = r :: rest →
            (s.acct.xu[k]).lapse = false →
            (t.acct.xu[k]).position = .opened
              ∧ (t.acct.xu[k]).timer = some { count := 0, limit := s.acct.settings.takeLimit }
              ∧ Tells s t (.tool k) [.access (s.acct.identOf r) (s.acct.xu[k]).returnList.length])
        ∧ (∀ mv, s.acct.du.taken = some mv → mv.state = .holding .interlock → mv.dest = .at (.exchange k) →
            t.acct.du.taken = some { mv with state := .carrying }
              ∧ t.acct.du.watchdog = some { count := 0, limit := s.acct.settings.watchdogLimit }
              ∧ (t.acct.xu[k]).hold = none ∧ Tells s t .hdl [.proceed mv.number])
        ∧ t.acct.records = s.acct.records ∧ t.acct.claims = s.acct.claims ∧ t.acct.settings = s.acct.settings
        ∧ t.acct.up = s.acct.up ∧ t.acct.grace = s.acct.grace ∧ t.store = s.store ∧ t.freeIndex = s.freeIndex)
    ∧ ∀ p : Port,
      ∃ t, exec (.attentionPulseEnd p) s = .next t ∧ t.links = s.links
        ∧ t.acct.notices.get p = { s.acct.notices.get p with pulsing := false }
        ∧ ((s.acct.notices.get p).mode = .pulse → (t.acct.notices.get p).asserted = false)
        ∧ (∀ q, q ≠ p → t.acct.notices.get q = s.acct.notices.get q)
        ∧ t.acct = { s.acct with notices := t.acct.notices } ∧ t.store = s.store ∧ t.freeIndex = s.freeIndex

/-! ### Timers -/

/-- The move watchdog's expiry stops the dispatch FAULTED, as a mechanical fault does; the hold limit's sends the
waiting pod to a slot (R71, R77, R101, R152). -/
def Obligations.MoveTimersExpire : Prop :=
  ∀ (s : State) (mv : Move), s.power = .running → s.acct.du.taken = some mv →
    (∀ w, s.acct.du.watchdog = some w →
      ∃ t, exec .moveWatchdogExpiry s = .next t ∧ t.links = s.links
        ∧ t.acct.du.state = .faulted ∧ t.acct.du.taken = none ∧ t.acct.du.staged = none
        ∧ t.acct.du.watchdog = none
        ∧ (∀ r x, mv.returning = false → mv.kind ≠ .verify → mv.subject = some r → s.acct.record r = some x →
            ∃ y, t.acct.record r = some y ∧ y.custody = .unverified ∧ y.place = none ∧ y.holder = none
              ∧ y.lastKnown = some (if mv.state = .active then mv.source else .handler)
              ∧ Awaits t (.record r))
        ∧ Framed s t ∧ t.freeIndex = s.freeIndex)
    ∧ (∀ (k : Scanner) h, (s.acct.xu[k]).hold = some h → mv.state = .holding .interlock →
        mv.dest = .at (.exchange k) →
      ∃ t z, exec (.holdLimitExpiry k) s = .next t ∧ t.links = s.links
        ∧ (t.acct.xu[k]).hold = none ∧ t.acct.du.taken = some z ∧ z.number = mv.number ∧ z.subject = mv.subject
        ∧ ((∃ d, z.dest = .at (.slot d) ∧ z.state = .carrying ∧ t.acct.slot d = .expected mv.number)
            ∨ z.dest = .choose ∧ z.state = .holding .noSlot ∧ t.acct.du.watchdog = none)
        ∧ t.acct.records = s.acct.records ∧ t.acct.claims = s.acct.claims ∧ Framed s t ∧ t.store = s.store
        ∧ t.freeIndex = s.freeIndex)

/-- The take timer's expiry recalls the pod, its RECOVER move queued or waiting for room, and ends its claim UNTAKEN, the
scanner told with CLAIM_ENDED and RECALLED; the access timer's withdraws access with ACCESS_WITHDRAWN; the grace timer's
ends the scanner's claims, empties its notice queue, clears its overflow flag and summary, and tells the supervisor (R48,
R59, R89, R90, R95, R155, R193). That the queue is empty at the event's end, an ACCESS notice of the same event gone with
it, is the model's own (log 32, DEDUCED). -/
def Obligations.ScannerTimersExpire : Prop :=
  ∀ (s : State) (k : Scanner), s.power = .running → s.acct.Canonical →
    (∀ r x w c claim, (s.acct.xu[k]).position = .presented r → (s.acct.xu[k]).timer = some w →
        (s.acct.xu[k]).interlock = false → s.acct.grantedFor r = some (c, claim) → s.acct.record r = some x →
        x.custody = .presented → x.place = some (.exchange k) →
      ∃ t y, exec (.takeTimerExpiry k) s = .next t ∧ t.links = s.links
        ∧ (t.acct.xu[k]).position = .recalled r ∧ (t.acct.xu[k]).timer = none
        ∧ Table.lookup t.acct.claims c = none
        ∧ Tells s t (.tool claim.tool) [.claimEnded claim.tag .untaken (claim.members.countP (·.taken))]
        ∧ (claim.tool = k →
            Tells s t (.tool k)
              [.claimEnded claim.tag .untaken (claim.members.countP (·.taken)), .recalled x.ident claim.tag .untaken])
        ∧ t.acct.record r = some y ∧ y.aside = x.aside
        ∧ (k ∈ t.acct.du.waitExchange
          ∨ ∃ mv ∈ t.acct.moves, mv.kind = .recover ∧ mv.subject = some r ∧ mv.source = .exchange k)
        ∧ Framed s t ∧ t.freeIndex = s.freeIndex)
    ∧ (∀ w, (s.acct.xu[k]).position = .opened → (s.acct.xu[k]).timer = some w → (s.acct.xu[k]).interlock = false →
      ∃ t, exec (.accessExpiry k) s = .next t ∧ t.links = s.links
        ∧ (((t.acct.xu[k]).position = .empty ∧ (t.acct.xu[k]).lapse = true) ∨ (t.acct.xu[k]).position = .incoming)
        ∧ (t.acct.xu[k]).timer = none ∧ (t.acct.xu[k]).returnList = (s.acct.xu[k]).returnList
        ∧ Tells s t (.tool k) [.accessWithdrawn (s.acct.xu[k]).returnList.length]
        ∧ t.acct.records = s.acct.records ∧ t.acct.claims = s.acct.claims ∧ Framed s t ∧ t.store = s.store
        ∧ t.freeIndex = s.freeIndex)
    ∧ (∀ w, s.acct.grace[k] = some w →
      ∃ t, exec (.graceExpiry k) s = .next t ∧ t.links = s.links
        ∧ t.acct.grace[k] = none ∧ (∀ l : Scanner, l ≠ k → t.acct.grace[l] = s.acct.grace[l])
        ∧ (∀ c y, Table.lookup t.acct.claims c = some y → y.tool ≠ k)
        ∧ (∀ c y, Table.lookup s.acct.claims c = some y → y.tool ≠ k →
            ∃ z, Table.lookup t.acct.claims c = some z ∧ z.terms = y.terms)
        ∧ (t.acct.notices.get (.tool k)).queue = [] ∧ (t.acct.notices.get (.tool k)).overflow = false
        ∧ (t.acct.notices.get (.tool k)).summary = { info := false, attention := false, fault := false }
        ∧ (t.acct.notices.get (.tool k)).mode = (s.acct.notices.get (.tool k)).mode
        ∧ (t.acct.notices.get (.tool k)).mask = (s.acct.notices.get (.tool k)).mask
        ∧ Tells s t .sup [.link (.tool k) .graceExpired]
        ∧ t.acct.settings = s.acct.settings ∧ t.acct.up = s.acct.up ∧ ArrayKept s.store t.store
        ∧ t.freeIndex = s.freeIndex)

/-- The station watchdog's expiry abandons the inspection; the sweep's ages every record that stands settled elsewhere
than at the station, makes due what reaches a limit, and starts the next interval or stops (R128, R130, R131, R140,
R141). -/
def Obligations.StationAndSweepTimersExpire : Prop :=
  ∀ s : State, s.power = .running →
    (∀ r w, s.acct.qu.station = .inspecting r → s.acct.qu.watchdog = some w →
      ∃ t, exec .stationWatchdogExpiry s = .next t ∧ t.links = s.links
        ∧ t.acct.qu.station = .finished (some r) ∧ t.acct.qu.watchdog = none ∧ t.acct.qu.abandoned = some r
        ∧ OthersKept s t [] ∧ Framed s t ∧ t.store = s.store ∧ t.freeIndex = s.freeIndex)
    ∧ (∀ period, s.acct.settings.sweepRunning = true → s.acct.qu.sweepLoaded = some period → s.acct.Canonical →
      ∃ t, exec .sweepExpiry s = .next t ∧ t.links = s.links
        ∧ (∀ r x, s.acct.record r = some x → x.custody ≠ .unverified → x.custody ≠ .atStation →
            ∃ y, t.acct.record r = some y
              ∧ KeepsRecord (compared s.acct.settings { x with age := min (x.age + period) 16777215 }) y
              ∧ (y.age ≠ x.age ∨ y.due ≠ x.due → Awaits t (.record r)))
        ∧ (∀ r x, s.acct.record r = some x → x.custody = .unverified ∨ x.custody = .atStation →
            ∃ y, t.acct.record r = some y ∧ y.aside = x.aside)
        ∧ (s.acct.settings.sweepMode = .periodic →
            t.acct.qu.sweepLoaded = some s.acct.settings.sweepPeriod ∧ t.acct.qu.sweepCounted = 0
              ∧ t.acct.settings = s.acct.settings)
        ∧ (s.acct.settings.sweepMode = .oneShot →
            t.acct.qu.sweepLoaded = none ∧ t.acct.qu.sweepCounted = 0
              ∧ t.acct.settings = { s.acct.settings with sweepRunning := false } ∧ Awaits t .header)
        ∧ t.acct.up = s.acct.up ∧ t.acct.grace = s.acct.grace ∧ ArrayKept s.store t.store
        ∧ t.freeIndex = s.freeIndex)

/-- PROGRAM_COMPLETE: a page that passes verify is current in the array, its record CLEAN unless it is queued again,
its debt discharged. A header with the mark set sets the mark and sends CLEAN, and where a record page is queued a header
with the mark clear is programmed next; a header with the mark clear clears it; a queue that drains with the SYNC request
yes and no page owed brings a header with the mark set. A page that fails once is programmed again; a second failure takes
the lowest FREE spare, or leaves the page owed, and a failed spare is written BAD. A format pass programs the header, the
64 spares FREE, the 832 records ERASED, and the header with the mark set where no page is queued, after which the SYNC
request is met or kept (R12, R165 to R168, R173). What a failed program leaves on its page is a free value (log 10).
The model's own are the place of a page with several spares (log 47), the QUEUED status of an owed record handed over
again (log 48), the kept status of a later record as an erase passes (log 49) and the remap of a page owed already
(log 53), each a DESIGN CHOICE. -/
def Obligations.ProgramsCompleteOrAreRemapped : Prop :=
  ∀ (s : State) (pr : Program) (header : Content → Program) (stageFresh : Prop), s.power = .running →
    s.store.inFlight = some pr →
    (∀ image, header image =
      { purpose := .page .header, place := s.store.placeOf .header, image := image, secondTry := false }) →
    (stageFresh ↔ ∀ image, s.store.stage = some (.header, image) → image = .header s.acct.settings false) →
    (s.store.format = none →
      (∀ n ret, pr.purpose = .page (.record n) → pr.image = .record n ret →
        ∃ t, exec (.programComplete true) s = .next t ∧ t.links = s.links
          ∧ t.store.pageAt pr.place = .readable pr.image
          ∧ (∀ pl, pl ≠ pr.place → t.store.pageAt pl = s.store.pageAt pl)
          ∧ .record n ∉ t.store.owed
          ∧ (∀ x, s.acct.record n = some x →
              t.acct.record n = some { x with retention := if .record n ∈ s.store.queue then .queued else .clean })
          ∧ (∀ q, q ≠ n → t.acct.record q = s.acct.record q)
          ∧ { t.acct with records := s.acct.records, notices := s.acct.notices } = s.acct ∧ t.freeIndex = s.freeIndex)
      ∧ (∀ p, pr.purpose = .page p → (∀ n ret, pr.image ≠ .record n ret) →
        ∃ t, exec (.programComplete true) s = .next t ∧ t.links = s.links
          ∧ t.store.pageAt pr.place = .readable pr.image
          ∧ (∀ pl, pl ≠ pr.place → t.store.pageAt pl = s.store.pageAt pl)
          ∧ p ∉ t.store.owed ∧ (∀ q, q ≠ p → (q ∈ t.store.owed ↔ q ∈ s.store.owed))
          ∧ (∀ settings mark, pr.image = .header settings mark → t.store.mark = mark)
          ∧ ((∀ settings mark, pr.image ≠ .header settings mark) → t.store.mark = s.store.mark)
          ∧ (∀ settings, pr.image = .header settings true →
              Tells s t .sup [.retention .clean]
                ∧ (stageFresh → (∃ n, .record n ∈ s.store.queue) →
                    t.store.inFlight = some (header (.header s.acct.settings false))))
          ∧ (s.store.queue = [] → s.store.syncRequest = false → t.store.inFlight = none)
          ∧ { t.acct with notices := s.acct.notices } = s.acct ∧ t.freeIndex = s.freeIndex)
      ∧ (∀ p, pr.purpose = .page p → (∀ settings, pr.image ≠ .header settings true) →
        s.store.mark = false ∨ (∃ settings, pr.image = .header settings false) → s.store.queue = [] →
        s.store.syncRequest = true → (∀ q ∈ s.store.owed, q = p) →
        ∃ t, exec (.programComplete true) s = .next t
          ∧ t.store.inFlight = some (header (.header s.acct.settings true)) ∧ t.store.syncRequest = false))
    ∧ (∀ p, pr.purpose = .page p → pr.secondTry = false →
      ∃ t, exec (.programComplete false) s = .next t ∧ t.links = s.links
        ∧ t.store.inFlight = some { pr with secondTry := true } ∧ t.store.queue = s.store.queue
        ∧ t.store.format = s.store.format
        ∧ (t.store.pageAt pr.place = s.store.pageAt pr.place ∨ t.store.pageAt pr.place = .unreadable)
        ∧ t.acct = s.acct)
    ∧ (∀ p i rest, pr.purpose = .page p → pr.secondTry = true → s.store.freeSpares = i :: rest →
        pr.place ≠ .spare i →
      ∃ t, exec (.programComplete false) s = .next t ∧ t.links = s.links
        ∧ Table.lookup t.store.spareMap i = some (.replaces p) ∧ Awaits t p
        ∧ (∀ j, pr.place = .spare j →
            Table.lookup t.store.spareMap j = some .bad
              ∧ t.store.inFlight =
                  some { purpose := .badSpare, place := .spare j, image := .bad, secondTry := false })
        ∧ t.acct = { s.acct with
            notices := s.acct.notices.modify .sup (fun ns => ns.enter (.retention (.remapped p rest.length))) })
    ∧ (∀ p, pr.purpose = .page p → pr.secondTry = true → s.store.freeSpares = [] →
      ∃ t, exec (.programComplete false) s = .next t ∧ t.links = s.links ∧ p ∈ t.store.owed
        ∧ (∀ n x, p = .record n → p ∉ s.store.owed → s.acct.record n = some x →
            t.acct.record n = some { x with retention := .unretained }))
    ∧ ∀ f, s.store.format = some f →
      ∃ t, exec (.programComplete true) s = .next t ∧ t.links = s.links
        ∧ t.store.pageAt pr.place = .readable pr.image
        ∧ (f = .waiting →
            t.store.format = some .firstHeader
              ∧ t.store.inFlight = some (header (.header Settings.format false)))
        ∧ (∀ i : Nat, (f = .firstHeader ∧ i = 0 ∨ ∃ j, f = .spare j ∧ i = j + 1) → i < 64 →
            t.store.format = some (.spare i)
              ∧ t.store.inFlight =
                  some { purpose := .freeSpare, place := .spare i, image := .free, secondTry := false })
        ∧ (∀ n : Nat, (f = .spare 63 ∧ n = 0 ∨ ∃ j, f = .record j ∧ n = j + 1) → n < 832 →
            t.store.format = some (.record n)
              ∧ t.store.inFlight =
                  some { purpose := .page (.record n), place := s.store.placeOf (.record n), image := .erased n,
                         secondTry := false })
        ∧ (f = .record 831 →
            t.store.format = some .lastHeader
              ∧ t.store.inFlight = some (header (.header s.acct.settings s.store.queue.isEmpty)))
        ∧ (∀ settings mark, f = .lastHeader → pr.purpose = .page .header → pr.image = .header settings mark →
            t.store.format = none ∧ t.store.mark = mark
              ∧ (mark = true → t.store.syncRequest = false ∧ Tells s t .sup [.retention .clean])
              ∧ (mark = true → s.store.queue = [] → t.store.inFlight = none)
              ∧ (mark = true → stageFresh → (∃ n, .record n ∈ s.store.queue) →
                  t.store.inFlight = some (header (.header s.acct.settings false)))
              ∧ (mark = false → ∀ p rest, s.store.queue = p :: rest →
                  t.store.syncRequest = s.store.syncRequest ∧ t.acct.notices = s.acct.notices
                    ∧ ∃ next, t.store.inFlight = some next ∧ next.purpose = .page p))
        ∧ t.freeIndex = s.freeIndex
end

