-- ==== Sys2Proof/Laws/State.lean ====
section
/-! SUPPORT. One lemma per field per update of the work record and of the state, true by definition. -/

namespace Sys2Proof.Machine

namespace Work

@[simp] theorem onDu_records (w : Work) (f : DispatchUnit → DispatchUnit) : (w.onDu f).acct.records = w.acct.records := rfl
@[simp] theorem onDu_claims (w : Work) (f : DispatchUnit → DispatchUnit) : (w.onDu f).acct.claims = w.acct.claims := rfl
@[simp] theorem onDu_nextOrder (w : Work) (f : DispatchUnit → DispatchUnit) : (w.onDu f).acct.nextOrder = w.acct.nextOrder := rfl
@[simp] theorem onDu_du (w : Work) (f : DispatchUnit → DispatchUnit) : (w.onDu f).acct.du = f w.acct.du := rfl
@[simp] theorem onDu_sm (w : Work) (f : DispatchUnit → DispatchUnit) : (w.onDu f).acct.sm = w.acct.sm := rfl
@[simp] theorem onDu_xu (w : Work) (f : DispatchUnit → DispatchUnit) : (w.onDu f).acct.xu = w.acct.xu := rfl
@[simp] theorem onDu_qu (w : Work) (f : DispatchUnit → DispatchUnit) : (w.onDu f).acct.qu = w.acct.qu := rfl
@[simp] theorem onDu_settings (w : Work) (f : DispatchUnit → DispatchUnit) : (w.onDu f).acct.settings = w.acct.settings := rfl
@[simp] theorem onDu_up (w : Work) (f : DispatchUnit → DispatchUnit) : (w.onDu f).acct.up = w.acct.up := rfl
@[simp] theorem onDu_everUp (w : Work) (f : DispatchUnit → DispatchUnit) : (w.onDu f).acct.everUp = w.acct.everUp := rfl
@[simp] theorem onDu_grace (w : Work) (f : DispatchUnit → DispatchUnit) : (w.onDu f).acct.grace = w.acct.grace := rfl
@[simp] theorem onDu_notices (w : Work) (f : DispatchUnit → DispatchUnit) : (w.onDu f).acct.notices = w.acct.notices := rfl
@[simp] theorem onDu_todo (w : Work) (f : DispatchUnit → DispatchUnit) : (w.onDu f).todo = w.todo := rfl

@[simp] theorem onSm_records (w : Work) (f : SlotMap → SlotMap) : (w.onSm f).acct.records = w.acct.records := rfl
@[simp] theorem onSm_claims (w : Work) (f : SlotMap → SlotMap) : (w.onSm f).acct.claims = w.acct.claims := rfl
@[simp] theorem onSm_nextOrder (w : Work) (f : SlotMap → SlotMap) : (w.onSm f).acct.nextOrder = w.acct.nextOrder := rfl
@[simp] theorem onSm_du (w : Work) (f : SlotMap → SlotMap) : (w.onSm f).acct.du = w.acct.du := rfl
@[simp] theorem onSm_sm (w : Work) (f : SlotMap → SlotMap) : (w.onSm f).acct.sm = f w.acct.sm := rfl
@[simp] theorem onSm_xu (w : Work) (f : SlotMap → SlotMap) : (w.onSm f).acct.xu = w.acct.xu := rfl
@[simp] theorem onSm_qu (w : Work) (f : SlotMap → SlotMap) : (w.onSm f).acct.qu = w.acct.qu := rfl
@[simp] theorem onSm_settings (w : Work) (f : SlotMap → SlotMap) : (w.onSm f).acct.settings = w.acct.settings := rfl
@[simp] theorem onSm_up (w : Work) (f : SlotMap → SlotMap) : (w.onSm f).acct.up = w.acct.up := rfl
@[simp] theorem onSm_everUp (w : Work) (f : SlotMap → SlotMap) : (w.onSm f).acct.everUp = w.acct.everUp := rfl
@[simp] theorem onSm_grace (w : Work) (f : SlotMap → SlotMap) : (w.onSm f).acct.grace = w.acct.grace := rfl
@[simp] theorem onSm_notices (w : Work) (f : SlotMap → SlotMap) : (w.onSm f).acct.notices = w.acct.notices := rfl
@[simp] theorem onSm_todo (w : Work) (f : SlotMap → SlotMap) : (w.onSm f).todo = w.todo := rfl

@[simp] theorem onQu_records (w : Work) (f : QualificationUnit → QualificationUnit) : (w.onQu f).acct.records = w.acct.records := rfl
@[simp] theorem onQu_claims (w : Work) (f : QualificationUnit → QualificationUnit) : (w.onQu f).acct.claims = w.acct.claims := rfl
@[simp] theorem onQu_nextOrder (w : Work) (f : QualificationUnit → QualificationUnit) : (w.onQu f).acct.nextOrder = w.acct.nextOrder := rfl
@[simp] theorem onQu_du (w : Work) (f : QualificationUnit → QualificationUnit) : (w.onQu f).acct.du = w.acct.du := rfl
@[simp] theorem onQu_sm (w : Work) (f : QualificationUnit → QualificationUnit) : (w.onQu f).acct.sm = w.acct.sm := rfl
@[simp] theorem onQu_xu (w : Work) (f : QualificationUnit → QualificationUnit) : (w.onQu f).acct.xu = w.acct.xu := rfl
@[simp] theorem onQu_qu (w : Work) (f : QualificationUnit → QualificationUnit) : (w.onQu f).acct.qu = f w.acct.qu := rfl
@[simp] theorem onQu_settings (w : Work) (f : QualificationUnit → QualificationUnit) : (w.onQu f).acct.settings = w.acct.settings := rfl
@[simp] theorem onQu_up (w : Work) (f : QualificationUnit → QualificationUnit) : (w.onQu f).acct.up = w.acct.up := rfl
@[simp] theorem onQu_everUp (w : Work) (f : QualificationUnit → QualificationUnit) : (w.onQu f).acct.everUp = w.acct.everUp := rfl
@[simp] theorem onQu_grace (w : Work) (f : QualificationUnit → QualificationUnit) : (w.onQu f).acct.grace = w.acct.grace := rfl
@[simp] theorem onQu_notices (w : Work) (f : QualificationUnit → QualificationUnit) : (w.onQu f).acct.notices = w.acct.notices := rfl
@[simp] theorem onQu_todo (w : Work) (f : QualificationUnit → QualificationUnit) : (w.onQu f).todo = w.todo := rfl

@[simp] theorem onXu_records (w : Work) (k : Scanner) (f : ExchangeUnit → ExchangeUnit) : (w.onXu k f).acct.records = w.acct.records := rfl
@[simp] theorem onXu_claims (w : Work) (k : Scanner) (f : ExchangeUnit → ExchangeUnit) : (w.onXu k f).acct.claims = w.acct.claims := rfl
@[simp] theorem onXu_nextOrder (w : Work) (k : Scanner) (f : ExchangeUnit → ExchangeUnit) : (w.onXu k f).acct.nextOrder = w.acct.nextOrder := rfl
@[simp] theorem onXu_du (w : Work) (k : Scanner) (f : ExchangeUnit → ExchangeUnit) : (w.onXu k f).acct.du = w.acct.du := rfl
@[simp] theorem onXu_sm (w : Work) (k : Scanner) (f : ExchangeUnit → ExchangeUnit) : (w.onXu k f).acct.sm = w.acct.sm := rfl
@[simp] theorem onXu_xu (w : Work) (k : Scanner) (f : ExchangeUnit → ExchangeUnit) : (w.onXu k f).acct.xu = w.acct.xu.set k (f w.acct.xu[k]) := rfl
@[simp] theorem onXu_qu (w : Work) (k : Scanner) (f : ExchangeUnit → ExchangeUnit) : (w.onXu k f).acct.qu = w.acct.qu := rfl
@[simp] theorem onXu_settings (w : Work) (k : Scanner) (f : ExchangeUnit → ExchangeUnit) : (w.onXu k f).acct.settings = w.acct.settings := rfl
@[simp] theorem onXu_up (w : Work) (k : Scanner) (f : ExchangeUnit → ExchangeUnit) : (w.onXu k f).acct.up = w.acct.up := rfl
@[simp] theorem onXu_everUp (w : Work) (k : Scanner) (f : ExchangeUnit → ExchangeUnit) : (w.onXu k f).acct.everUp = w.acct.everUp := rfl
@[simp] theorem onXu_grace (w : Work) (k : Scanner) (f : ExchangeUnit → ExchangeUnit) : (w.onXu k f).acct.grace = w.acct.grace := rfl
@[simp] theorem onXu_notices (w : Work) (k : Scanner) (f : ExchangeUnit → ExchangeUnit) : (w.onXu k f).acct.notices = w.acct.notices := rfl
@[simp] theorem onXu_todo (w : Work) (k : Scanner) (f : ExchangeUnit → ExchangeUnit) : (w.onXu k f).todo = w.todo := rfl

@[simp] theorem onSettings_records (w : Work) (f : Settings → Settings) : (w.onSettings f).acct.records = w.acct.records := rfl
@[simp] theorem onSettings_claims (w : Work) (f : Settings → Settings) : (w.onSettings f).acct.claims = w.acct.claims := rfl
@[simp] theorem onSettings_nextOrder (w : Work) (f : Settings → Settings) : (w.onSettings f).acct.nextOrder = w.acct.nextOrder := rfl
@[simp] theorem onSettings_du (w : Work) (f : Settings → Settings) : (w.onSettings f).acct.du = w.acct.du := rfl
@[simp] theorem onSettings_sm (w : Work) (f : Settings → Settings) : (w.onSettings f).acct.sm = w.acct.sm := rfl
@[simp] theorem onSettings_xu (w : Work) (f : Settings → Settings) : (w.onSettings f).acct.xu = w.acct.xu := rfl
@[simp] theorem onSettings_qu (w : Work) (f : Settings → Settings) : (w.onSettings f).acct.qu = w.acct.qu := rfl
@[simp] theorem onSettings_settings (w : Work) (f : Settings → Settings) : (w.onSettings f).acct.settings = f w.acct.settings := rfl
@[simp] theorem onSettings_up (w : Work) (f : Settings → Settings) : (w.onSettings f).acct.up = w.acct.up := rfl
@[simp] theorem onSettings_everUp (w : Work) (f : Settings → Settings) : (w.onSettings f).acct.everUp = w.acct.everUp := rfl
@[simp] theorem onSettings_grace (w : Work) (f : Settings → Settings) : (w.onSettings f).acct.grace = w.acct.grace := rfl
@[simp] theorem onSettings_notices (w : Work) (f : Settings → Settings) : (w.onSettings f).acct.notices = w.acct.notices := rfl
@[simp] theorem onSettings_todo (w : Work) (f : Settings → Settings) : (w.onSettings f).todo = w.todo := rfl

@[simp] theorem onRecord_records (w : Work) (r : Nat) (f : Record → Record) : (w.onRecord r f).acct.records = Table.modify w.acct.records r f := rfl
@[simp] theorem onRecord_claims (w : Work) (r : Nat) (f : Record → Record) : (w.onRecord r f).acct.claims = w.acct.claims := rfl
@[simp] theorem onRecord_nextOrder (w : Work) (r : Nat) (f : Record → Record) : (w.onRecord r f).acct.nextOrder = w.acct.nextOrder := rfl
@[simp] theorem onRecord_du (w : Work) (r : Nat) (f : Record → Record) : (w.onRecord r f).acct.du = w.acct.du := rfl
@[simp] theorem onRecord_sm (w : Work) (r : Nat) (f : Record → Record) : (w.onRecord r f).acct.sm = w.acct.sm := rfl
@[simp] theorem onRecord_xu (w : Work) (r : Nat) (f : Record → Record) : (w.onRecord r f).acct.xu = w.acct.xu := rfl
@[simp] theorem onRecord_qu (w : Work) (r : Nat) (f : Record → Record) : (w.onRecord r f).acct.qu = w.acct.qu := rfl
@[simp] theorem onRecord_settings (w : Work) (r : Nat) (f : Record → Record) : (w.onRecord r f).acct.settings = w.acct.settings := rfl
@[simp] theorem onRecord_up (w : Work) (r : Nat) (f : Record → Record) : (w.onRecord r f).acct.up = w.acct.up := rfl
@[simp] theorem onRecord_everUp (w : Work) (r : Nat) (f : Record → Record) : (w.onRecord r f).acct.everUp = w.acct.everUp := rfl
@[simp] theorem onRecord_grace (w : Work) (r : Nat) (f : Record → Record) : (w.onRecord r f).acct.grace = w.acct.grace := rfl
@[simp] theorem onRecord_notices (w : Work) (r : Nat) (f : Record → Record) : (w.onRecord r f).acct.notices = w.acct.notices := rfl
@[simp] theorem onRecord_todo (w : Work) (r : Nat) (f : Record → Record) : (w.onRecord r f).todo = w.todo := rfl

@[simp] theorem onClaim_records (w : Work) (c : Nat) (f : Claim → Claim) : (w.onClaim c f).acct.records = w.acct.records := rfl
@[simp] theorem onClaim_claims (w : Work) (c : Nat) (f : Claim → Claim) : (w.onClaim c f).acct.claims = Table.modify w.acct.claims c f := rfl
@[simp] theorem onClaim_nextOrder (w : Work) (c : Nat) (f : Claim → Claim) : (w.onClaim c f).acct.nextOrder = w.acct.nextOrder := rfl
@[simp] theorem onClaim_du (w : Work) (c : Nat) (f : Claim → Claim) : (w.onClaim c f).acct.du = w.acct.du := rfl
@[simp] theorem onClaim_sm (w : Work) (c : Nat) (f : Claim → Claim) : (w.onClaim c f).acct.sm = w.acct.sm := rfl
@[simp] theorem onClaim_xu (w : Work) (c : Nat) (f : Claim → Claim) : (w.onClaim c f).acct.xu = w.acct.xu := rfl
@[simp] theorem onClaim_qu (w : Work) (c : Nat) (f : Claim → Claim) : (w.onClaim c f).acct.qu = w.acct.qu := rfl
@[simp] theorem onClaim_settings (w : Work) (c : Nat) (f : Claim → Claim) : (w.onClaim c f).acct.settings = w.acct.settings := rfl
@[simp] theorem onClaim_up (w : Work) (c : Nat) (f : Claim → Claim) : (w.onClaim c f).acct.up = w.acct.up := rfl
@[simp] theorem onClaim_everUp (w : Work) (c : Nat) (f : Claim → Claim) : (w.onClaim c f).acct.everUp = w.acct.everUp := rfl
@[simp] theorem onClaim_grace (w : Work) (c : Nat) (f : Claim → Claim) : (w.onClaim c f).acct.grace = w.acct.grace := rfl
@[simp] theorem onClaim_notices (w : Work) (c : Nat) (f : Claim → Claim) : (w.onClaim c f).acct.notices = w.acct.notices := rfl
@[simp] theorem onClaim_todo (w : Work) (c : Nat) (f : Claim → Claim) : (w.onClaim c f).todo = w.todo := rfl

@[simp] theorem notify_records (w : Work) (p : Port) (n : Notice) : (w.notify p n).acct.records = w.acct.records := rfl
@[simp] theorem notify_claims (w : Work) (p : Port) (n : Notice) : (w.notify p n).acct.claims = w.acct.claims := rfl
@[simp] theorem notify_nextOrder (w : Work) (p : Port) (n : Notice) : (w.notify p n).acct.nextOrder = w.acct.nextOrder := rfl
@[simp] theorem notify_du (w : Work) (p : Port) (n : Notice) : (w.notify p n).acct.du = w.acct.du := rfl
@[simp] theorem notify_sm (w : Work) (p : Port) (n : Notice) : (w.notify p n).acct.sm = w.acct.sm := rfl
@[simp] theorem notify_xu (w : Work) (p : Port) (n : Notice) : (w.notify p n).acct.xu = w.acct.xu := rfl
@[simp] theorem notify_qu (w : Work) (p : Port) (n : Notice) : (w.notify p n).acct.qu = w.acct.qu := rfl
@[simp] theorem notify_settings (w : Work) (p : Port) (n : Notice) : (w.notify p n).acct.settings = w.acct.settings := rfl
@[simp] theorem notify_up (w : Work) (p : Port) (n : Notice) : (w.notify p n).acct.up = w.acct.up := rfl
@[simp] theorem notify_everUp (w : Work) (p : Port) (n : Notice) : (w.notify p n).acct.everUp = w.acct.everUp := rfl
@[simp] theorem notify_grace (w : Work) (p : Port) (n : Notice) : (w.notify p n).acct.grace = w.acct.grace := rfl
@[simp] theorem notify_notices (w : Work) (p : Port) (n : Notice) : (w.notify p n).acct.notices = w.acct.notices.modify p (fun ns => ns.enter n) := rfl
@[simp] theorem notify_todo (w : Work) (p : Port) (n : Notice) : (w.notify p n).todo = w.todo := rfl

@[simp] theorem onTodo_acct (w : Work) (f : Todo → Todo) : (w.onTodo f).acct = w.acct := rfl
@[simp] theorem onTodo_todo (w : Work) (f : Todo → Todo) : (w.onTodo f).todo = f w.todo := rfl
@[simp] theorem onAcct_acct (w : Work) (f : Account → Account) : (w.onAcct f).acct = f w.acct := rfl
@[simp] theorem onAcct_todo (w : Work) (f : Account → Account) : (w.onAcct f).todo = w.todo := rfl
@[simp] theorem page_acct (w : Work) (p : PageId) : (w.page p).acct = w.acct := rfl
@[simp] theorem recordPage_acct (w : Work) (r : Nat) : (w.recordPage r).acct = w.acct := rfl
@[simp] theorem tryStaging_acct (w : Work) : w.tryStaging.acct = w.acct := rfl
@[simp] theorem judgeGate_acct (w : Work) : w.judgeGate.acct = w.acct := rfl
@[simp] theorem offerRoom_acct (w : Work) : w.offerRoom.acct = w.acct := rfl
@[simp] theorem freeEntry_acct (w : Work) : w.freeEntry.acct = w.acct := rfl
@[simp] theorem bringUp_acct (w : Work) (c : Nat) : (w.bringUp c).acct = w.acct := rfl
@[simp] theorem hand_acct (w : Work) (r : Nat) (b : Bool) : (w.hand r b).acct = w.acct := rfl
@[simp] theorem start_acct (a : Account) : (Work.start a).acct = a := rfl
@[simp] theorem start_todo (a : Account) : (Work.start a).todo = {} := rfl

end Work

namespace State

@[simp] theorem onStore_pending (s : State) (f : RetentionStore → RetentionStore) : (s.onStore f).pending = s.pending := rfl
@[simp] theorem onStore_power (s : State) (f : RetentionStore → RetentionStore) : (s.onStore f).power = s.power := rfl
@[simp] theorem onStore_links (s : State) (f : RetentionStore → RetentionStore) : (s.onStore f).links = s.links := rfl
@[simp] theorem onStore_acct (s : State) (f : RetentionStore → RetentionStore) : (s.onStore f).acct = s.acct := rfl
@[simp] theorem onStore_store (s : State) (f : RetentionStore → RetentionStore) : (s.onStore f).store = f s.store := rfl
@[simp] theorem onStore_freeIndex (s : State) (f : RetentionStore → RetentionStore) : (s.onStore f).freeIndex = s.freeIndex := rfl

@[simp] theorem onAcct_pending (s : State) (f : Account → Account) : (s.onAcct f).pending = s.pending := rfl
@[simp] theorem onAcct_power (s : State) (f : Account → Account) : (s.onAcct f).power = s.power := rfl
@[simp] theorem onAcct_links (s : State) (f : Account → Account) : (s.onAcct f).links = s.links := rfl
@[simp] theorem onAcct_acct (s : State) (f : Account → Account) : (s.onAcct f).acct = f s.acct := rfl
@[simp] theorem onAcct_store (s : State) (f : Account → Account) : (s.onAcct f).store = s.store := rfl
@[simp] theorem onAcct_freeIndex (s : State) (f : Account → Account) : (s.onAcct f).freeIndex = s.freeIndex := rfl

@[simp] theorem onIo_pending (s : State) (p : Port) (f : PortIo → PortIo) : (s.onIo p f).pending = s.pending := rfl
@[simp] theorem onIo_power (s : State) (p : Port) (f : PortIo → PortIo) : (s.onIo p f).power = s.power := rfl
@[simp] theorem onIo_links (s : State) (p : Port) (f : PortIo → PortIo) : (s.onIo p f).links = { s.links with ports := s.links.ports.modify p f } := rfl
@[simp] theorem onIo_acct (s : State) (p : Port) (f : PortIo → PortIo) : (s.onIo p f).acct = s.acct := rfl
@[simp] theorem onIo_store (s : State) (p : Port) (f : PortIo → PortIo) : (s.onIo p f).store = s.store := rfl
@[simp] theorem onIo_freeIndex (s : State) (p : Port) (f : PortIo → PortIo) : (s.onIo p f).freeIndex = s.freeIndex := rfl

@[simp] theorem notify_pending (s : State) (p : Port) (n : Notice) : (s.notify p n).pending = s.pending := rfl
@[simp] theorem setRetention_pending (s : State) (n : Nat) (v : Retention) : (s.setRetention n v).pending = s.pending := rfl
@[simp] theorem notify_power (s : State) (p : Port) (n : Notice) : (s.notify p n).power = s.power := rfl
@[simp] theorem setRetention_power (s : State) (n : Nat) (v : Retention) : (s.setRetention n v).power = s.power := rfl
@[simp] theorem notify_links (s : State) (p : Port) (n : Notice) : (s.notify p n).links = s.links := rfl
@[simp] theorem setRetention_links (s : State) (n : Nat) (v : Retention) : (s.setRetention n v).links = s.links := rfl
@[simp] theorem notify_store (s : State) (p : Port) (n : Notice) : (s.notify p n).store = s.store := rfl
@[simp] theorem setRetention_store (s : State) (n : Nat) (v : Retention) : (s.setRetention n v).store = s.store := rfl
@[simp] theorem notify_freeIndex (s : State) (p : Port) (n : Notice) : (s.notify p n).freeIndex = s.freeIndex := rfl
@[simp] theorem setRetention_freeIndex (s : State) (n : Nat) (v : Retention) : (s.setRetention n v).freeIndex = s.freeIndex := rfl
@[simp] theorem applyEffect_pending (s : State) (p : Port) (m : Byte) (t : Bool) (c : Nat) : (s.applyEffect p m t c).pending = s.pending := rfl
@[simp] theorem respond_pending (s : State) (p : Port) (b : Byte) (o : Outcome) (t : Bool) (c : Nat) (y : Payload) : (s.respond p b o t c y).pending = s.pending := rfl
@[simp] theorem refuse_pending (s : State) (p : Port) (m b : Byte) (o : Outcome) : (s.refuse p m b o).pending = s.pending := rfl
@[simp] theorem applyEffect_power (s : State) (p : Port) (m : Byte) (t : Bool) (c : Nat) : (s.applyEffect p m t c).power = s.power := rfl
@[simp] theorem respond_power (s : State) (p : Port) (b : Byte) (o : Outcome) (t : Bool) (c : Nat) (y : Payload) : (s.respond p b o t c y).power = s.power := rfl
@[simp] theorem refuse_power (s : State) (p : Port) (m b : Byte) (o : Outcome) : (s.refuse p m b o).power = s.power := rfl
@[simp] theorem applyEffect_acct (s : State) (p : Port) (m : Byte) (t : Bool) (c : Nat) : (s.applyEffect p m t c).acct = s.acct := rfl
@[simp] theorem respond_acct (s : State) (p : Port) (b : Byte) (o : Outcome) (t : Bool) (c : Nat) (y : Payload) : (s.respond p b o t c y).acct = s.acct := rfl
@[simp] theorem refuse_acct (s : State) (p : Port) (m b : Byte) (o : Outcome) : (s.refuse p m b o).acct = s.acct := rfl
@[simp] theorem applyEffect_store (s : State) (p : Port) (m : Byte) (t : Bool) (c : Nat) : (s.applyEffect p m t c).store = s.store := rfl
@[simp] theorem respond_store (s : State) (p : Port) (b : Byte) (o : Outcome) (t : Bool) (c : Nat) (y : Payload) : (s.respond p b o t c y).store = s.store := rfl
@[simp] theorem refuse_store (s : State) (p : Port) (m b : Byte) (o : Outcome) : (s.refuse p m b o).store = s.store := rfl
@[simp] theorem applyEffect_freeIndex (s : State) (p : Port) (m : Byte) (t : Bool) (c : Nat) : (s.applyEffect p m t c).freeIndex = s.freeIndex := rfl
@[simp] theorem respond_freeIndex (s : State) (p : Port) (b : Byte) (o : Outcome) (t : Bool) (c : Nat) (y : Payload) : (s.respond p b o t c y).freeIndex = s.freeIndex := rfl
@[simp] theorem refuse_freeIndex (s : State) (p : Port) (m b : Byte) (o : Outcome) : (s.refuse p m b o).freeIndex = s.freeIndex := rfl

end State

end Sys2Proof.Machine
end

