-- ==== Sys2Proof/Laws/Table.lean ====
section
/-! SUPPORT. What the operations on tables and per-port values do: a read after a write, and the canonical form
kept by each. -/

namespace Sys2Proof.Machine

namespace Table

variable {α β : Type}

/-- The numbers a table lists. -/
def keys (t : Table α) : List Nat := t.map Prod.fst

theorem sorted_iff (t : Table α) : sorted t = true ↔ (keys t).Pairwise (· < ·) := by
  induction t with
  | nil => simp [sorted, keys]
  | cons p t ih =>
    cases t with
    | nil => simp [sorted, keys]
    | cons q t =>
      obtain ⟨k, v⟩ := p
      obtain ⟨l, w⟩ := q
      rw [sorted, Bool.and_eq_true, ih, decide_eq_true_iff]
      simp only [keys, List.map_cons, List.pairwise_cons, List.mem_cons, forall_eq_or_imp]
      constructor
      · rintro ⟨h, h1, h2⟩
        exact ⟨⟨h, fun a ha => lt_trans h (h1 a ha)⟩, h1, h2⟩
      · rintro ⟨⟨h, _⟩, h1, h2⟩
        exact ⟨h, h1, h2⟩

theorem mem_keys_put {t : Table α} {n m : Nat} {v : α} (h : m ∈ keys (put t n v)) : m = n ∨ m ∈ keys t := by
  induction t with
  | nil => simpa [put, keys] using h
  | cons p t ih =>
    obtain ⟨k, w⟩ := p
    unfold put at h
    split at h
    · simpa [keys] using h
    · split at h
      · simp only [keys, List.map_cons, List.mem_cons] at h ⊢
        tauto
      · simp only [keys, List.map_cons, List.mem_cons] at h ⊢
        rcases h with h | h
        · tauto
        · rcases ih h with h | h <;> tauto

theorem mem_keys_remove {t : Table α} {n m : Nat} (h : m ∈ keys (remove t n)) : m ∈ keys t ∧ m ≠ n := by
  induction t with
  | nil => simp [remove, keys] at h
  | cons p t ih =>
    obtain ⟨k, w⟩ := p
    unfold remove at h
    split at h
    · exact ⟨List.mem_cons_of_mem _ (ih h).1, (ih h).2⟩
    · rename_i hk
      simp only [keys, List.map_cons, List.mem_cons] at h ⊢
      rcases h with h | h
      · exact ⟨.inl h, by omega⟩
      · exact ⟨.inr (ih h).1, (ih h).2⟩

theorem keys_modify (t : Table α) (n : Nat) (f : α → α) : keys (modify t n f) = keys t := by
  induction t with
  | nil => rfl
  | cons p t ih =>
    obtain ⟨k, w⟩ := p
    unfold modify
    split <;> simpa [keys] using ih

theorem keys_mapValues (t : Table α) (f : α → β) : keys (t.map (fun p => (p.1, f p.2))) = keys t := by
  simp [keys, List.map_map, Function.comp_def]

theorem sorted_put {t : Table α} (n : Nat) (v : α) (h : sorted t = true) : sorted (put t n v) = true := by
  rw [sorted_iff] at h ⊢
  induction t with
  | nil => simp [put, keys]
  | cons p t ih =>
    obtain ⟨k, w⟩ := p
    simp only [keys, List.map_cons, List.pairwise_cons] at h
    unfold put
    split
    · rename_i hn
      simp only [keys, List.map_cons, List.pairwise_cons, List.mem_cons, forall_eq_or_imp]
      exact ⟨⟨hn, fun a ha => lt_trans hn (h.1 a ha)⟩, h.1, h.2⟩
    · split
      · rename_i hn
        simp only [keys, List.map_cons, List.pairwise_cons]
        exact ⟨fun a ha => hn ▸ h.1 a ha, h.2⟩
      · rename_i h1 h2
        simp only [keys, List.map_cons, List.pairwise_cons]
        refine ⟨fun a ha => ?_, ih h.2⟩
        rcases mem_keys_put ha with rfl | ha
        · omega
        · exact h.1 a ha

theorem sorted_remove {t : Table α} (n : Nat) (h : sorted t = true) : sorted (remove t n) = true := by
  rw [sorted_iff] at h ⊢
  induction t with
  | nil => simp [remove, keys]
  | cons p t ih =>
    obtain ⟨k, w⟩ := p
    simp only [keys, List.map_cons, List.pairwise_cons] at h
    unfold remove
    split
    · exact ih h.2
    · simp only [keys, List.map_cons, List.pairwise_cons]
      exact ⟨fun a ha => h.1 a (mem_keys_remove ha).1, ih h.2⟩

theorem sorted_modify {t : Table α} (n : Nat) (f : α → α) (h : sorted t = true) : sorted (modify t n f) = true := by
  rw [sorted_iff] at h ⊢
  rwa [keys_modify]

theorem sorted_mapValues {t : Table α} (f : α → β) (h : sorted t = true) :
    sorted (t.map (fun p => (p.1, f p.2)) : Table β) = true := by
  rw [sorted_iff] at h ⊢
  rwa [keys_mapValues]

theorem sorted_putD [DecidableEq α] {t : Table α} (n : Nat) (dflt v : α) (h : sorted t = true) :
    sorted (putD t n dflt v) = true := by
  unfold putD
  split
  · exact sorted_remove n h
  · exact sorted_put n v h

/-- What a lookup finds is listed. -/
theorem mem_of_lookup {t : Table α} {n : Nat} {v : α} (h : lookup t n = some v) : (n, v) ∈ t := by
  induction t with
  | nil => simp [lookup] at h
  | cons e t ih =>
    obtain ⟨k, w⟩ := e
    unfold lookup at h
    split at h
    · rename_i hk
      obtain rfl := Option.some.inj h
      exact hk ▸ List.mem_cons_self
    · exact List.mem_cons_of_mem _ (ih h)

theorem lookup_put_self (t : Table α) (n : Nat) (v : α) : lookup (put t n v) n = some v := by
  induction t with
  | nil => simp [put, lookup]
  | cons p t ih =>
    obtain ⟨k, w⟩ := p
    unfold put
    split
    · simp [lookup]
    · split
      · simp [lookup]
      · rename_i h1 h2
        rw [lookup, if_neg (by omega)]
        exact ih

theorem lookup_put_ne (t : Table α) {n m : Nat} (v : α) (h : m ≠ n) : lookup (put t n v) m = lookup t m := by
  induction t with
  | nil => simp [put, lookup, Ne.symm h]
  | cons p t ih =>
    obtain ⟨k, w⟩ := p
    unfold put
    split
    · rw [lookup, if_neg (Ne.symm h)]
    · split
      · rename_i h2
        subst h2
        rw [lookup, lookup, if_neg (Ne.symm h), if_neg (Ne.symm h)]
      · rw [lookup, lookup, ih]

theorem lookup_remove_self (t : Table α) (n : Nat) : lookup (remove t n) n = none := by
  induction t with
  | nil => rfl
  | cons p t ih =>
    obtain ⟨k, w⟩ := p
    unfold remove
    split
    · exact ih
    · rename_i h
      rw [lookup, if_neg h]
      exact ih

theorem lookup_remove_ne (t : Table α) {n m : Nat} (h : m ≠ n) : lookup (remove t n) m = lookup t m := by
  induction t with
  | nil => rfl
  | cons p t ih =>
    obtain ⟨k, w⟩ := p
    unfold remove
    split
    · rename_i hk
      subst hk
      rw [ih, lookup, if_neg (Ne.symm h)]
    · rw [lookup, lookup, ih]

theorem lookup_modify (t : Table α) (n m : Nat) (f : α → α) :
    lookup (modify t n f) m = if m = n then (lookup t m).map f else lookup t m := by
  induction t with
  | nil => simp [modify, lookup]
  | cons p t ih =>
    obtain ⟨k, w⟩ := p
    unfold modify
    by_cases hk : k = n
    · subst hk
      rw [if_pos rfl, lookup, lookup]
      by_cases hm : k = m
      · subst hm
        simp
      · rw [if_neg hm, if_neg hm, ih, if_neg (Ne.symm hm)]
    · rw [if_neg hk, lookup, lookup]
      by_cases hm : k = m
      · subst hm
        rw [if_pos rfl, if_neg hk]
        simp
      · rw [if_neg hm, if_neg hm, ih]

end Table

namespace PortMap

variable {α : Type}

@[simp] theorem get_set_self (m : PortMap α) (p : Port) (x : α) : (m.set p x).get p = x := by
  cases p <;> simp [get, set]

theorem get_set_ne (m : PortMap α) {p q : Port} (x : α) (h : q ≠ p) : (m.set p x).get q = m.get q := by
  cases p <;> cases q <;> simp_all [get, set]
  rename_i k l
  exact Vector.getElem_set_ne _ _ (fun hk => h (Fin.ext hk.symm))

@[simp] theorem get_modify_self (m : PortMap α) (p : Port) (f : α → α) : (m.modify p f).get p = f (m.get p) :=
  get_set_self m p _

theorem get_modify_ne (m : PortMap α) {p q : Port} (f : α → α) (h : q ≠ p) : (m.modify p f).get q = m.get q :=
  get_set_ne m _ h

@[simp] theorem get_mapAll (m : PortMap α) (f : α → α) (p : Port) : (m.mapAll f).get p = f (m.get p) := by
  cases p <;> simp [get, mapAll]

@[simp] theorem get_all (x : α) (p : Port) : (PortMap.all x).get p = x := by
  cases p <;> simp [get, PortMap.all]

end PortMap

end Sys2Proof.Machine
end

