-- ==== Sys2Proof/Laws/Via.lean ====
section
/-! SUPPORT. Everything the operations over the account can do: each of them leads from one work record to
another by changes of the dispatch, the slots, the station, one exchange unit (its interlock level aside), the
records, the claims, and by entering notices. The settings, the links and the grace timers are not among them. -/

namespace Sys2Proof.Laws

open Sys2Proof.Machine

/-- The second work record is reached from the first by the changes named. -/
inductive Via : Work → Work → Prop where
  | refl (w : Work) : Via w w
  | trans {u v w : Work} : Via u v → Via v w → Via u w
  | todo (w : Work) (f : Todo → Todo) : Via w (w.onTodo f)
  | du (w : Work) (f : DispatchUnit → DispatchUnit) : Via w (w.onDu f)
  | sm (w : Work) (f : SlotMap → SlotMap)
      (h : ∀ x, Table.sorted x.slots = true → Table.sorted (f x).slots = true) : Via w (w.onSm f)
  | qu (w : Work) (f : QualificationUnit → QualificationUnit) : Via w (w.onQu f)
  | xu (w : Work) (k : Scanner) (f : ExchangeUnit → ExchangeUnit) (h : ∀ x, (f x).interlock = x.interlock) :
      Via w (w.onXu k f)
  | records (w : Work) (f : Table Record → Table Record) (h : ∀ t, Table.sorted t = true → Table.sorted (f t) = true) :
      Via w (w.onAcct (fun a => { a with records := f a.records }))
  | claims (w : Work) (f : Table Claim → Table Claim) (h : ∀ t, Table.sorted t = true → Table.sorted (f t) = true) :
      Via w (w.onAcct (fun a => { a with claims := f a.claims }))
  | notify (w : Work) (p : Port) (n : Notice) : Via w (w.notify p n)

namespace Via

variable {u w : Work}

theorem onTodo (f : Todo → Todo) (h : Via u w) : Via u (w.onTodo f) := h.trans (.todo w f)
theorem onDu (f : DispatchUnit → DispatchUnit) (h : Via u w) : Via u (w.onDu f) := h.trans (.du w f)
theorem onSm (f : SlotMap → SlotMap) (h : Via u w)
    (hf : ∀ x, Table.sorted x.slots = true → Table.sorted (f x).slots = true := by exact fun _ h => h) :
    Via u (w.onSm f) := h.trans (.sm w f hf)
theorem onQu (f : QualificationUnit → QualificationUnit) (h : Via u w) : Via u (w.onQu f) := h.trans (.qu w f)
theorem onXu (k : Scanner) (f : ExchangeUnit → ExchangeUnit) (hf : ∀ x, (f x).interlock = x.interlock) (h : Via u w) :
    Via u (w.onXu k f) := h.trans (.xu w k f hf)
theorem onRecord (r : Nat) (f : Record → Record) (h : Via u w) : Via u (w.onRecord r f) :=
  h.trans (.records w (fun t => Table.modify t r f) (fun _ => Table.sorted_modify r f))
theorem onClaim (c : Nat) (f : Claim → Claim) (h : Via u w) : Via u (w.onClaim c f) :=
  h.trans (.claims w (fun t => Table.modify t c f) (fun _ => Table.sorted_modify c f))
theorem notice (p : Port) (n : Notice) (h : Via u w) : Via u (w.notify p n) := h.trans (.notify w p n)
theorem page (p : PageId) (h : Via u w) : Via u (w.page p) := h.onTodo _
theorem recordPage (r : Nat) (h : Via u w) : Via u (w.recordPage r) := h.page _
theorem tryStaging (h : Via u w) : Via u w.tryStaging := h.onTodo _
theorem judgeGate (h : Via u w) : Via u w.judgeGate := h.onTodo _
theorem offerRoom (h : Via u w) : Via u w.offerRoom := h.onTodo _
theorem freeEntry (h : Via u w) : Via u w.freeEntry := h.onTodo _
theorem bringUp (c : Nat) (h : Via u w) : Via u (w.bringUp c) := h.onTodo _
theorem hand (r : Nat) (b : Bool) (h : Via u w) : Via u (w.hand r b) := h.onTodo _
theorem unlist (r : Nat) (h : Via u w) : Via u (w.unlist r) := h.onQu _
theorem startWatchdog (h : Via u w) : Via u w.startWatchdog :=
  h.onDu (fun d => { d with watchdog := some { count := 0, limit := w.acct.settings.watchdogLimit } })
theorem stopWatchdog (h : Via u w) : Via u w.stopWatchdog := h.onDu _

theorem bringHead (r : Nat) (h : Via u w) : Via u (w.bringHead r) := by
  unfold Work.bringHead
  split <;> first | exact h.bringUp _ | exact h

theorem foldl {α : Type} (f : Work → α → Work) (hf : ∀ w x, Via w (f w x)) (l : List α) (h : Via u w) :
    Via u (l.foldl f w) := by
  induction l generalizing w with
  | nil => exact h
  | cons x l ih => exact ih (h.trans (hf w x))

theorem setSlot (n : Nat) (st : SlotState) (h : Via u w) : Via u (w.setSlot n st) := by
  unfold Work.setSlot
  dsimp only
  split <;> split <;> (try apply judgeGate) <;> (try apply tryStaging) <;>
    exact .onDu _ (.onSm _ h (fun x hx => Table.sorted_putD n x.base st hx))

theorem addMove (kind : MoveKind) (subject : Option Nat) (source : Place) (dest : Dest) (priority : Priority)
    (cause : Option CauseClaim) (h : Via u w) : Via u (w.addMove kind subject source dest priority cause) := by
  unfold Work.addMove
  exact (h.onDu _).tryStaging

theorem tryOpen (k : Scanner) (h : Via u w) : Via u (w.tryOpen k) := by
  unfold Work.tryOpen
  dsimp only
  split
  · split
    · split
      · exact h.tryStaging
      · refine .notice _ _ (.onXu _ _ ?_ h)
        exact fun _ => rfl
    · exact h.tryStaging
  · exact h

theorem emptyPosition (k : Scanner) (h : Via u w) : Via u (w.emptyPosition k) := by
  refine .tryOpen k (.onXu _ _ ?_ h)
  exact fun _ => rfl

theorem doubtPosition (k : Scanner) (h : Via u w) : Via u (w.doubtPosition k) := by
  refine .tryStaging (.onDu _ (.onXu _ _ ?_ h))
  exact fun _ => rfl

theorem leaveList (k : Scanner) (r : Nat) (h : Via u w) : Via u (w.leaveList k r) := by
  unfold Work.leaveList
  dsimp only
  split
  · split
    · split
      · refine .tryStaging (.notice _ _ (.onXu _ _ ?_ (.onRecord _ _ h)))
        exact fun _ => rfl
      · exact (h.onRecord r _).onXu k _ (fun _ => rfl)
    · exact (h.onRecord r _).onXu k _ (fun _ => rfl)
  · exact h

theorem recallPosition (k : Scanner) (tag : Nat) (cause : EndCause) (quiet : Bool) (h : Via u w) :
    Via u (w.recallPosition k tag cause quiet) := by
  unfold Work.recallPosition
  split
  · dsimp only
    split
    · refine .offerRoom (.onDu _ (.onXu _ _ ?_ h))
      exact fun _ => rfl
    · refine .offerRoom (.onDu _ (.notice _ _ (.onXu _ _ ?_ h)))
      exact fun _ => rfl
  · exact h

theorem releaseMark (m : Move) (h : Via u w) : Via u (w.releaseMark m) := by
  unfold Work.releaseMark
  split
  · split <;> first | exact h.setSlot _ _ | exact h
  · split <;> first | exact h.emptyPosition _ | exact h
  · split <;> first | exact (h.onQu _).tryStaging | exact h
  · exact h

theorem dropMove (m : Move) (h : Via u w) : Via u (w.dropMove m) := by
  unfold Work.dropMove
  split
  · exact (((h.onDu _).releaseMark m).notice _ _).tryStaging
  · exact (h.onDu _).tryStaging

theorem withdraw (m : Move) (h : Via u w) : Via u (w.withdraw m) := (h.dropMove m).freeEntry

theorem withdrawNaming (r : Nat) (h : Via u w) : Via u (w.withdrawNaming r) := by
  unfold Work.withdrawNaming
  split <;> first | exact h.withdraw _ | exact h

theorem withdrawToQueue (h : Via u w) : Via u w.withdrawToQueue := by
  unfold Work.withdrawToQueue
  split
  · exact h
  · exact ((((h.onDu _).releaseMark _).onDu _).notice _ _)

theorem stopHold (m : Move) (h : Via u w) : Via u (w.stopHold m) := by
  unfold Work.stopHold
  split
  · exact h.onXu _ _ (fun _ => rfl)
  · exact h

theorem redirect (m : Move) (released : Bool) (emptied : Option Nat) (h : Via u w) :
    Via u (w.redirect m released emptied) := by
  unfold Work.redirect
  dsimp only
  have h1 : Via u ((if released = true then w.releaseMark m else w).stopHold m) := by
    apply stopHold
    split <;> first | exact h.releaseMark m | exact h
  split
  · exact ((h1.setSlot _ _).onDu _).startWatchdog
  · exact ((h1.setSlot _ _).onDu _).startWatchdog
  · exact (h1.onDu _).stopWatchdog

theorem redirectNotice (m : Move) (h : Via u w) : Via u (w.redirectNotice m) := by
  unfold Work.redirectNotice
  split <;> first | exact h.notice _ _ | exact h

theorem applyDeferred (r : Nat) (h : Via u w) : Via u (w.applyDeferred r) := by
  unfold Work.applyDeferred
  split
  · exact h
  · rename_i rec _
    dsimp only
    have h1 : Via u (if rec.held = .holdPending then (w.onRecord r (fun x => { x with held := .held })).recordPage r
        else w) := by
      split <;> first | exact (h.onRecord r _).recordPage r | exact h
    split
    · exact (((((h1.onRecord r _).recordPage r).unlist r).onDu _).offerRoom)
    · split
      · exact (h1.bringHead r).hand r false
      · exact h1.bringHead r

theorem backToStored (r : Nat) (h : Via u w) : Via u (w.backToStored r) := (h.onRecord r _).applyDeferred r

theorem leaveQueues (c : Nat) (members : List Member) (h : Via u w) : Via u (w.leaveQueues c members) := by
  unfold Work.leaveQueues
  apply foldl _ _ _ h
  intro w m
  dsimp only
  split
  · exact .refl w
  · split
    · exact ((refl w).onRecord _ _).bringHead _
    · exact (refl w).onRecord _ _

theorem dealMember (tag : Nat) (cause : EndCause) (r : Nat) (h : Via u w) :
    Via u (Work.dealMember tag cause w r) := by
  unfold Work.dealMember
  split
  · exact h
  · split
    · split
      · exact (h.onDu _).backToStored r
      · split
        · exact (h.withdraw _).backToStored r
        · exact (h.withdraw _).backToStored r
        · exact h
    · split
      · split
        · exact (h.redirect _ _ _).redirectNotice _
        · exact h
      · exact h
    · split
      · exact h.recallPosition _ _ _ _
      · exact h
    · exact h.withdrawNaming r
    · exact h

theorem endClaim (c : Nat) (claim : Claim) (cause : EndCause) (silent : Bool) (h : Via u w) :
    Via u (w.endClaim c claim cause silent) := by
  unfold Work.endClaim
  dsimp only
  have h1 : Via u (if silent = true then w
      else w.notify (.tool claim.tool) (.claimEnded claim.tag cause (Work.takenCount claim))) := by
    split <;> first | exact h.notice _ _ | exact h
  have h2 := h1.trans (.claims _ (fun t => Table.remove t c) (fun _ => Table.sorted_remove c))
  split
  · exact h2.leaveQueues c _
  · exact foldl _ (fun w r => (refl w).dealMember _ _ r) _ (h2.onDu _)

theorem endClaims (l : List (Nat × Claim)) (cause : EndCause) (silent : Bool) (h : Via u w) :
    Via u (w.endClaims l cause silent) :=
  foldl _ (fun w _ => (refl w).endClaim _ _ _ _) _ h

theorem endQueued (r : Nat) (cause : EndCause) (h : Via u w) : Via u (w.endQueued r cause) := h.endClaims _ _ _

theorem endScanner (k : Scanner) (cause : EndCause) (silent : Bool) (h : Via u w) :
    Via u (w.endScanner k cause silent) := h.endClaims _ _ _

theorem recheckIntake (h : Via u w) : Via u w.recheckIntake := by
  unfold Work.recheckIntake
  split
  · exact h.onSm _
  · exact h

theorem handPlace (r : Nat) (id : Ident) (place : Option Place) (h : Via u w) : Via u (w.handPlace r id place) := by
  unfold Work.handPlace
  split
  · exact (h.setSlot _ _).tryStaging
  · exact (h.onSm _).tryStaging
  · exact h.doubtPosition _
  · split
    · exact ((h.onQu _).notice _ _).tryStaging
    · exact ((h.onQu _).onDu _).tryStaging
    · exact h
  · exact h.onDu _
  · exact h

theorem enterDoubt (r : Nat) (cause : DoubtCause) (concerned : Place) (lastKnown : Option Place)
    (move : Option Nat) (ownPlace : Bool) (h : Via u w) :
    Via u (w.enterDoubt r cause concerned lastKnown move ownPlace) := by
  unfold Work.enterDoubt
  split
  · exact h
  · rename_i rec _
    dsimp only
    have h1 := ((h.onRecord r (fun x => { x with
      custody := .unverified, place := none, lastKnown := lastKnown, holder := none,
      retirePending := x.retirePending || decide (x.custody = .outbound) })).recordPage r).notice .sup
      (.unverified rec.ident r cause concerned lastKnown move)
    split
    · split
      · exact (((((h1.leaveList _ r).unlist r).onDu _).withdrawNaming r).handPlace r _ _)
      · exact ((h1.unlist r).onDu _).withdrawNaming r |>.handPlace r _ _
    · split
      · exact (((h1.leaveList _ r).unlist r).onDu _).withdrawNaming r
      · exact ((h1.unlist r).onDu _).withdrawNaming r

theorem failClaim (r : Nat) (h : Via u w) : Via u (w.failClaim r) := by
  unfold Work.failClaim
  split <;> first | exact h.endClaim _ _ _ _ | exact h

theorem enterUnverified (r : Nat) (cause : DoubtCause) (concerned : Place) (lastKnown : Option Place)
    (move : Option Nat) (ownPlace : Bool) (h : Via u w) :
    Via u (w.enterUnverified r cause concerned lastKnown move ownPlace) := (h.enterDoubt r _ _ _ _ _).failClaim r

theorem deleteRecord (r : Nat) (h : Via u w) : Via u (w.deleteRecord r) := by
  refine .recordPage r (.onQu _ (.unlist r ?_))
  exact (h.trans (.records _ (fun t => Table.remove t r) (fun _ => Table.sorted_remove r))).trans
    (.claims _ (fun t => t.map (fun (p : Nat × Claim) => (p.1, Work.forgetMember r p.2)))
      (fun _ => Table.sorted_mapValues (Work.forgetMember r)))

theorem dueNotices (r : Nat) (limit : LimitReached) (toSup : Bool) (h : Via u w) :
    Via u (w.dueNotices r limit toSup) := by
  unfold Work.dueNotices
  split
  · exact h
  · dsimp only
    split
    · split
      · exact (h.notice _ _).notice _ _
      · exact h.notice _ _
    · split
      · exact h.notice _ _
      · exact h

/-! ### What an event settles -/

theorem giveExchange (k : Scanner) (h : Via u w) : Via u (w.giveExchange k) := by
  unfold Work.giveExchange
  split
  · dsimp only
    split
    · exact (h.onDu _).addMove _ _ _ _ _ _
    · exact (h.onDu _).addMove _ _ _ _ _ _
    · exact h.onDu _
  · exact h

theorem giveStation (h : Via u w) : Via u w.giveStation := by
  unfold Work.giveStation
  split
  · dsimp only
    split
    · exact (h.onDu _).addMove _ _ _ _ _ _
    · exact h.onDu _
  · exact h

theorem giveFetch (r : Nat) (h : Via u w) : Via u (w.giveFetch r) := by
  unfold Work.giveFetch
  split
  · dsimp only
    split
    · exact (h.onDu _).addMove _ _ _ _ _ _
    · exact h.onDu _
  · exact h

theorem giveCustody (r : Nat) (h : Via u w) : Via u (w.giveCustody r) := by
  unfold Work.giveCustody
  split
  · dsimp only
    split
    · split
      · exact (h.onDu _).addMove _ _ _ _ _ _
      · exact (h.onDu _).addMove _ _ _ _ _ _
      · exact h.onDu _
    · exact h.onDu _
  · exact h

theorem giveFirst (h : Via u w) : Via u w.giveFirst := by
  unfold Work.giveFirst
  split
  · dsimp only
    apply foldl _ (fun w r => (refl w).giveFetch r)
    apply giveStation
    exact foldl _ (fun w k => (refl w).giveExchange k) _ h
  · exact h

theorem giveRetirements (h : Via u w) : Via u w.giveRetirements := by
  unfold Work.giveRetirements
  split
  · exact foldl _ (fun w r => (refl w).giveCustody r) _ h
  · exact h

theorem allot (claim : Claim) (r : Nat) (h : Via u w) : Via u (Work.allot claim w r) := by
  unfold Work.allot
  split
  · exact h
  · dsimp only
    split
    · exact (h.onRecord r _).addMove _ _ _ _ _ _
    · exact h.onRecord r _

theorem leaveRoom (c : Nat) (h : Via u w) : Via u (w.leaveRoom c) := h.onClaim c _

theorem checkNewHead (r : Nat) (h : Via u w) : Via u (w.checkNewHead r) := by
  unfold Work.checkNewHead
  split
  · exact h.leaveRoom _
  · exact h

theorem grant (c : Nat) (claim : Claim) (h : Via u w) : Via u (w.grant c claim) := by
  unfold Work.grant
  dsimp only
  apply notice
  apply foldl _ (fun w r => (refl w).checkNewHead r)
  apply foldl _ (fun w r => (refl w).allot claim r)
  exact foldl _ (fun w r => (refl w).onRecord r _) _ (h.onClaim c _)

theorem examine (c : Nat) (h : Via u w) : Via u (w.examine c) := by
  unfold Work.examine
  split
  · exact h
  · split
    · split
      · split
        · exact h.grant c _
        · exact h.onClaim c _
      · exact h.leaveRoom c
    · exact h

theorem checkGrants (h : Via u w) : Via u w.checkGrants := foldl _ (fun w _ => (refl w).examine _) _ h

theorem addToStation (r : Nat) (h : Via u w) : Via u (w.addToStation r) := by
  unfold Work.addToStation
  split <;> first | exact h.addMove _ _ _ _ _ _ | exact h

theorem route (q : Nat × Bool) (h : Via u w) : Via u (w.route q) := by
  unfold Work.route
  split
  · split
    · exact h
    · split
      · exact h.addToStation _
      · exact h.onQu _
  · exact h

theorem offerListed (r : Nat) (h : Via u w) : Via u (w.offerListed r) := by
  unfold Work.offerListed
  split
  · exact (h.unlist r).addToStation r
  · exact h

theorem offerRouting (h : Via u w) : Via u w.offerRouting := by
  unfold Work.offerRouting
  split
  · exact foldl _ (fun w r => (refl w).offerListed r) _ h
  · exact h

theorem markDest (m : Move) (h : Via u w) : Via u (w.markDest m) := by
  unfold Work.markDest
  split
  · exact h.setSlot _ _
  · exact h.onXu _ _ (fun _ => rfl)
  · exact h.onQu _
  · exact h

theorem stageMove (m : Move) (h : Via u w) : Via u (w.stageMove m) := ((h.onDu _).markDest _).notice _ _

theorem redirectNoSlot (h : Via u w) : Via u w.redirectNoSlot := by
  unfold Work.redirectNoSlot
  split
  · split
    · split
      · exact (((h.setSlot _ _).onDu _).startWatchdog).notice _ _
      · exact h
    · exact h
  · exact h

theorem stageFirst (h : Via u w) : Via u w.stageFirst := by
  unfold Work.stageFirst
  split
  · split <;> first | exact h.stageMove _ | exact h
  · exact h

theorem settleStaging (h : Via u w) : Via u w.settleStaging := by
  unfold Work.settleStaging
  split <;> first | exact h.redirectNoSlot.stageFirst | exact h

theorem judge (h : Via u w) : Via u w.judge := by
  unfold Work.judge
  dsimp only
  split
  · exact h
  · exact .notice _ _ (.onSm _ h)

theorem settleGate (h : Via u w) : Via u w.settleGate := by
  unfold Work.settleGate
  split
  · exact h.judge
  · exact h

/-- Everything that settling an event can do. -/
theorem settle (h : Via u w) : Via u w.settle := by
  unfold Work.settle
  dsimp only
  exact (foldl _ (fun w q => (refl w).route q) _
    h.giveFirst.checkGrants.giveRetirements.offerRouting).settleStaging.settleGate

end Via

end Sys2Proof.Laws
end

