-- ==== Sys2Proof/Laws/Frame.lean ====
section
/-! SUPPORT. What settling and committing an event leave as it was: the settings, the links, the grace timers, the
sequence of acceptances, the interlock levels and the attention settings; and the invariants they keep. -/

namespace Sys2Proof.Laws

open Sys2Proof.Machine

/-! ### Notices -/

theorem enter_length (ns : NoticeState) (n : Notice) (h : ns.queue.length ≤ Config.noticeRoom) :
    (ns.enter n).queue.length ≤ Config.noticeRoom := by
  unfold NoticeState.enter
  split
  · simp only [List.length_append, List.length_singleton]
    omega
  · exact h

@[simp] theorem enter_mode (ns : NoticeState) (n : Notice) : (ns.enter n).mode = ns.mode := by
  unfold NoticeState.enter
  split <;> rfl

@[simp] theorem enter_mask (ns : NoticeState) (n : Notice) : (ns.enter n).mask = ns.mask := by
  unfold NoticeState.enter
  split <;> rfl

theorem notices_modify {m : PortMap NoticeState} (P : NoticeState → Prop) (p q : Port) (f : NoticeState → NoticeState)
    (hf : P (m.get q) → P (f (m.get q))) (h : P (m.get q)) : P ((m.modify p f).get q) := by
  by_cases hq : q = p
  · subst hq
    rw [PortMap.get_modify_self]
    exact hf h
  · rw [PortMap.get_modify_ne _ _ hq]
    exact h

/-! ### The account -/

/-- What the second account keeps of the first. -/
structure Kept (a b : Account) : Prop where
  settings : b.settings = a.settings
  up : b.up = a.up
  everUp : b.everUp = a.everUp
  grace : b.grace = a.grace
  nextOrder : b.nextOrder = a.nextOrder
  interlock : ∀ k : Scanner, (b.xu[k]).interlock = (a.xu[k]).interlock
  mode : ∀ p : Port, (b.notices.get p).mode = (a.notices.get p).mode
  mask : ∀ p : Port, (b.notices.get p).mask = (a.notices.get p).mask
  bounded : NoticesBounded a → NoticesBounded b
  canonical : a.Canonical → b.Canonical

theorem Kept.refl (a : Account) : Kept a a :=
  ⟨rfl, rfl, rfl, rfl, rfl, fun _ => rfl, fun _ => rfl, fun _ => rfl, id, id⟩

theorem Kept.trans {a b c : Account} (h : Kept a b) (g : Kept b c) : Kept a c where
  settings := g.settings.trans h.settings
  up := g.up.trans h.up
  everUp := g.everUp.trans h.everUp
  grace := g.grace.trans h.grace
  nextOrder := g.nextOrder.trans h.nextOrder
  interlock k := (g.interlock k).trans (h.interlock k)
  mode p := (g.mode p).trans (h.mode p)
  mask p := (g.mask p).trans (h.mask p)
  bounded x := g.bounded (h.bounded x)
  canonical x := g.canonical (h.canonical x)

/-- An exchange unit changed elsewhere than in its interlock level. -/
theorem interlock_set (xu : Vector ExchangeUnit 8) (k l : Scanner) (f : ExchangeUnit → ExchangeUnit)
    (h : ∀ x, (f x).interlock = x.interlock) : ((xu.set k (f xu[k]))[l]).interlock = (xu[l]).interlock := by
  by_cases hkl : k = l
  · subst hkl
    simp [h]
  · have : k.val ≠ l.val := fun e => hkl (Fin.ext e)
    simp [this]

/-- A notice keeps everything but its queue. -/
theorem Kept.notified (a : Account) (p : Port) (n : Notice) :
    Kept a { a with notices := a.notices.modify p (fun ns => ns.enter n) } where
  settings := rfl
  up := rfl
  everUp := rfl
  grace := rfl
  nextOrder := rfl
  interlock _ := rfl
  mode q := notices_modify (fun x => x.mode = (a.notices.get q).mode) p q _ (fun _ => by simp) rfl
  mask q := notices_modify (fun x => x.mask = (a.notices.get q).mask) p q _ (fun _ => by simp) rfl
  bounded h q := notices_modify (fun x => x.queue.length ≤ Config.noticeRoom) p q _ (enter_length _ n) (h q)
  canonical h := h

/-- Everything the operations of an event keep. -/
theorem Via.kept {u w : Work} (h : Via u w) : Kept u.acct w.acct := by
  induction h with
  | refl w => exact .refl _
  | trans _ _ h g => exact h.trans g
  | todo w f => exact .refl _
  | du w f => exact ⟨rfl, rfl, rfl, rfl, rfl, fun _ => rfl, fun _ => rfl, fun _ => rfl, id, id⟩
  | sm w f h =>
    exact ⟨rfl, rfl, rfl, rfl, rfl, fun _ => rfl, fun _ => rfl, fun _ => rfl, id, fun x => ⟨x.1, x.2.1, h _ x.2.2⟩⟩
  | qu w f => exact ⟨rfl, rfl, rfl, rfl, rfl, fun _ => rfl, fun _ => rfl, fun _ => rfl, id, id⟩
  | xu w k f h =>
    exact ⟨rfl, rfl, rfl, rfl, rfl, fun l => interlock_set _ k l f h, fun _ => rfl, fun _ => rfl, id, id⟩
  | records w f h =>
    exact ⟨rfl, rfl, rfl, rfl, rfl, fun _ => rfl, fun _ => rfl, fun _ => rfl, id, fun x => ⟨h _ x.1, x.2⟩⟩
  | claims w f h =>
    exact ⟨rfl, rfl, rfl, rfl, rfl, fun _ => rfl, fun _ => rfl, fun _ => rfl, id, fun x => ⟨x.1, h _ x.2.1, x.2.2⟩⟩
  | notify w p n => exact .notified _ p n

theorem settle_kept (w : Work) : Kept w.acct w.settle.acct := ((Via.refl w).settle).kept

/-! ### The Retention Store (R12, R165) -/

/-- What the Retention Store's own work leaves: the queue of commands, the power, the links, the free-value
counter, and of the account everything but retention statuses and notices. -/
structure Stored (s t : State) : Prop where
  pending : t.pending = s.pending
  power : t.power = s.power
  links : t.links = s.links
  kept : Kept s.acct t.acct

theorem Stored.refl (s : State) : Stored s s := ⟨rfl, rfl, rfl, .refl _⟩

theorem Stored.trans {s t u : State} (h : Stored s t) (g : Stored t u) : Stored s u :=
  ⟨g.pending.trans h.pending, g.power.trans h.power, g.links.trans h.links, h.kept.trans g.kept⟩

theorem Stored.onStore (s : State) (f : RetentionStore → RetentionStore) : Stored s (s.onStore f) :=
  ⟨rfl, rfl, rfl, .refl _⟩

theorem Stored.setRetention (s : State) (n : Nat) (v : Retention) : Stored s (s.setRetention n v) :=
  ⟨rfl, rfl, rfl, rfl, rfl, rfl, rfl, rfl, fun _ => rfl, fun _ => rfl, fun _ => rfl, id,
    fun x => ⟨Table.sorted_modify _ _ x.1, x.2⟩⟩

theorem Stored.notify (s : State) (p : Port) (n : Notice) : Stored s (s.notify p n) :=
  ⟨rfl, rfl, rfl, .notified _ p n⟩

theorem Stored.startHead (s : State) : Stored s s.startHead := by
  unfold State.startHead
  split
  · exact .refl s
  · exact (Stored.onStore s _).trans (.onStore _ _)

theorem Stored.enqueue (s : State) (p : PageId) : Stored s (s.enqueue p) := by
  unfold State.enqueue
  split
  · exact .refl s
  · exact .onStore s _

theorem Stored.restage (s : State) : Stored s s.restage := .onStore s _

theorem Stored.markQueued (s : State) (p : PageId) : Stored s (s.markQueued p) := by
  unfold State.markQueued
  split
  · exact .setRetention s _ _
  · exact .refl s

/-- Everything a hand-over does. -/
theorem Stored.handOver (s : State) (p : PageId) : Stored s (s.handOver p) := by
  unfold State.handOver
  dsimp only
  have h := (Stored.markQueued s p).trans (.enqueue _ p)
  split
  · exact h
  · split
    · exact h.trans (.startHead _)
    · exact h.trans (.restage _)

theorem Stored.foldl {α : Type} (f : State → α → State) (hf : ∀ s x, Stored s (f s x)) (l : List α) (s : State) :
    Stored s (l.foldl f s) := by
  induction l generalizing s with
  | nil => exact .refl s
  | cons x l ih => exact (hf s x).trans (ih (f s x))

/-- R166 to R168, R173: the queue of commands, the power and the links are untouched by a drain. -/
theorem Stored.drain (s : State) : Stored s s.drain := by
  unfold State.drain
  dsimp only
  split
  · split
    · exact (Stored.onStore s _).trans (.notify _ _ _)
    · exact (Stored.onStore s _).trans (.onStore _ _)
  · exact (Stored.onStore s _).trans (.notify _ _ _)

theorem Stored.proceedQueue (s : State) : Stored s s.proceedQueue := by
  unfold State.proceedQueue
  split
  · exact .startHead s
  · split
    · exact (Stored.onStore s _).trans (.drain _)
    · exact .onStore s _

theorem Stored.moveOn (s : State) : Stored s s.moveOn := by
  unfold State.moveOn
  split
  · split
    · exact .onStore s _
    · exact (Stored.onStore s _).trans (.proceedQueue _)
  · exact .proceedQueue s

theorem Stored.recordDone (s : State) (p : PageId) (image : Content) : Stored s (s.recordDone p image) := by
  unfold State.recordDone
  split
  · exact .setRetention s _ _
  · exact .refl s

theorem Stored.headerDone (s : State) (image : Content) : Stored s (s.headerDone image) := by
  unfold State.headerDone
  split
  · exact (Stored.onStore s _).trans (.notify _ _ _)
  · exact .onStore s _
  · exact .refl s

/-- Everything a program's success does. -/
theorem Stored.programPassed (s : State) (pr : Program) : Stored s (s.programPassed pr) := by
  unfold State.programPassed
  dsimp only
  split
  · exact ((((Stored.onStore s _).trans (.onStore _ _)).trans (.recordDone _ _ _)).trans (.headerDone _ _)).trans
      (.moveOn _)
  · exact (Stored.onStore s _).trans (.moveOn _)
  · exact (Stored.onStore s _).trans (.moveOn _)

theorem Stored.startBad (s : State) (i : Nat) : Stored s (s.startBad i) := by
  unfold State.startBad
  exact (Stored.onStore s _).trans (.restage _)

theorem Stored.remap (s : State) (p : PageId) (pl : PagePlace) : Stored s (s.remap p pl) := by
  unfold State.remap
  split
  · rename_i i _ _
    dsimp only
    have h := ((Stored.onStore s (fun st => { st with spareMap := Table.put st.spareMap i (.replaces p) })).trans
      (.enqueue _ p))
    split
    · exact (h.trans (.notify _ _ _)).trans (.startBad _ _)
    · exact (h.trans (.notify _ _ _)).trans (.moveOn _)
  · split
    · exact .moveOn s
    · dsimp only
      split
      · exact (((Stored.onStore s _).trans (.setRetention _ _ _)).trans (.notify _ _ _)).trans (.moveOn _)
      · exact ((Stored.onStore s _).trans (.notify _ _ _)).trans (.moveOn _)

theorem Stored.spoil (s : State) (pl : PagePlace) : Stored s (s.spoil pl) := by
  unfold State.spoil
  dsimp only
  split
  · exact .onStore s _
  · split <;> exact ⟨rfl, rfl, rfl, .refl _⟩

/-- Everything a program's failure does. -/
theorem Stored.programFailed (s : State) (pr : Program) : Stored s (s.programFailed pr) := by
  unfold State.programFailed
  dsimp only
  have h := Stored.spoil s pr.place
  split
  · exact (h.trans (.onStore _ _)).trans (.moveOn _)
  · exact h.trans (.onStore _ _)
  · exact (h.trans (.onStore _ _)).trans (.remap _ _ _)
  · split
    · exact h.trans (.startBad _ _)
    · exact (h.trans (.onStore _ _)).trans (.moveOn _)

/-! ### Commitment -/

theorem commit_stored (s : State) (w : Work) : Stored { s with acct := w.settle.acct } (s.commit w) :=
  .foldl _ Stored.handOver _ _

@[simp] theorem commit_pending (s : State) (w : Work) : (s.commit w).pending = s.pending := (commit_stored s w).pending
@[simp] theorem commit_power (s : State) (w : Work) : (s.commit w).power = s.power := (commit_stored s w).power
@[simp] theorem commit_links (s : State) (w : Work) : (s.commit w).links = s.links := (commit_stored s w).links

/-- Everything a committed event keeps of the account its work had reached. -/
theorem commit_kept (s : State) (w : Work) : Kept w.acct (s.commit w).acct :=
  (settle_kept w).trans (commit_stored s w).kept

end Sys2Proof.Laws
end

