-- ==== Sys2Proof/Laws/Settles.lean ====
section
/-! SUPPORT. Everything that settling an event can change: only STORED records are allotted, only EMPTY positions,
slots and stations are marked, no record or claim comes or goes, and the dispatch state stays. -/

namespace Sys2Proof.Machine

/-! ### What follows an account -/

theorem Follows.refl (a : Account) : Follows a a where
  record _ x h := ⟨x, h, fun _ => rfl, rfl, fun h => .inl ⟨h, rfl⟩, List.Sublist.refl _⟩
  noRecord _ h := h
  claim _ x h := ⟨x, h, fun h => h, rfl⟩
  noClaim _ h := h
  nextOrder := rfl
  dispatch := rfl
  staged _ h := h
  idle _ := rfl
  taken := .inl ⟨rfl, rfl⟩
  slot _ := .inl rfl
  intake := rfl
  outtake := rfl
  exchange _ := .inl rfl
  station := .inl rfl
  stationWatchdog := rfl
  abandoned := rfl
  sweepLoaded := rfl
  sweepCounted := rfl
  settings := rfl
  up := rfl
  everUp := rfl
  grace := rfl
  notices _ := List.prefix_rfl
  mode _ := rfl
  mask _ := rfl

/-- A record that is not STORED keeps its custody. -/
theorem custody_of_aside {x y : Record} (h : y.aside = x.aside) : y.custody = x.custody :=
  Eq.trans (b := y.aside.custody) rfl (by rw [h]; rfl)

theorem Follows.trans {a b c : Account} (h : Follows a b) (g : Follows b c) : Follows a c where
  record r x hx := by
    obtain ⟨y, hy, h1, h2, h3, h4⟩ := h.record r x hx
    obtain ⟨z, hz, g1, g2, g3, g4⟩ := g.record r y hy
    refine ⟨z, hz, fun hs => ?_, g2.trans h2, fun hs => ?_, g4.trans h4⟩
    · have e := h1 hs
      exact (g1 (custody_of_aside e ▸ hs)).trans e
    · rcases h3 hs with e | e
      · rcases g3 e.1 with f | f
        · exact .inl ⟨f.1, f.2.trans e.2⟩
        · exact .inr f
      · exact .inr ((custody_of_aside (g1 (by rw [e]; decide))).trans e)
  noRecord r hr := g.noRecord r (h.noRecord r hr)
  claim n x hx := by
    obtain ⟨y, hy, h1, h2⟩ := h.claim n x hx
    obtain ⟨z, hz, g1, g2⟩ := g.claim n y hy
    exact ⟨z, hz, fun hs => g1 (h1 hs), g2.trans h2⟩
  noClaim n hn := g.noClaim n (h.noClaim n hn)
  nextOrder := g.nextOrder.trans h.nextOrder
  dispatch := g.dispatch.trans h.dispatch
  staged m hm := g.staged m (h.staged m hm)
  idle hs := (g.idle (by rw [h.dispatch]; exact hs)).trans (h.idle hs)
  taken := by
    rcases g.taken with e | ⟨m, n, e1, e2, e3, e4⟩
    · rcases h.taken with f | ⟨m, n, f1, f2, f3, f4⟩
      · exact .inl ⟨e.1.trans f.1, e.2.trans f.2⟩
      · refine .inr ⟨m, n, f1, f2, e.1.trans f3, ?_⟩
        rcases g.slot n with k | k
        · exact k.trans f4
        · rw [f4] at k
          exact SlotState.noConfusion k.1
    · rcases h.taken with f | ⟨m', n', f1, f2, f3, f4⟩
      · exact .inr ⟨m, n, f.1 ▸ e1, e2, e3, e4⟩
      · rw [f3] at e1
        cases e1
        exact MoveState.noConfusion e2
  slot n := by
    rcases g.slot n with e | e
    · exact e ▸ h.slot n
    · rcases h.slot n with f | f
      · exact .inr ⟨f ▸ e.1, e.2⟩
      · obtain ⟨mv, f2⟩ := f.2
        rw [f2] at e
        exact SlotState.noConfusion e.1
  intake := g.intake.trans h.intake
  outtake := g.outtake.trans h.outtake
  exchange k := by
    rcases g.exchange k with e | e
    · rw [e]
      exact h.exchange k
    · rcases h.exchange k with f | f
      · rw [f] at e
        exact .inr e
      · rw [f.2] at e
        exact Position.noConfusion e.1
  station := by
    rcases g.station with e | e
    · rw [e]
      exact h.station
    · rcases h.station with f | f
      · rw [f] at e
        exact .inr e
      · rw [f.2] at e
        exact StationState.noConfusion e.1
  stationWatchdog := g.stationWatchdog.trans h.stationWatchdog
  abandoned := g.abandoned.trans h.abandoned
  sweepLoaded := g.sweepLoaded.trans h.sweepLoaded
  sweepCounted := g.sweepCounted.trans h.sweepCounted
  settings := g.settings.trans h.settings
  up := g.up.trans h.up
  everUp := g.everUp.trans h.everUp
  grace := g.grace.trans h.grace
  notices p := (h.notices p).trans (g.notices p)
  mode p := (g.mode p).trans (h.mode p)
  mask p := (g.mask p).trans (h.mask p)

theorem enter_prefix (ns : NoticeState) (n : Notice) : ns.queue <+: (ns.enter n).queue := by
  unfold NoticeState.enter
  split
  · exact List.prefix_append _ _
  · exact List.prefix_rfl

/-- R188: entering a notice leaves everything but the notice states, whose queues only grow. -/
theorem Follows.notified (a : Account) (p : Port) (n : Notice) :
    Follows a { a with notices := a.notices.modify p (fun ns => ns.enter n) } :=
  { Follows.refl a with
    notices := fun q => Laws.notices_modify (fun x => (a.notices.get q).queue <+: x.queue) p q _
      (fun h => h.trans (enter_prefix _ n)) List.prefix_rfl
    mode := (Laws.Kept.notified a p n).mode
    mask := (Laws.Kept.notified a p n).mask }

end Sys2Proof.Machine

namespace Sys2Proof.Laws

open Sys2Proof.Machine

/-- The second work record, settled, follows the first, and hands over the same pages. -/
structure Settles (u w : Work) : Prop where
  follows : Follows u.acct w.acct
  pages : w.todo.pages = u.todo.pages

theorem Settles.refl (w : Work) : Settles w w := ⟨.refl _, rfl⟩

theorem Settles.trans {u v w : Work} (h : Settles u v) (g : Settles v w) : Settles u w :=
  ⟨h.follows.trans g.follows, g.pages.trans h.pages⟩

/-! ### Reading a written slot -/

theorem getD_putD {α : Type} [DecidableEq α] (t : Table α) (n m : Nat) (d v : α) :
    Table.getD (Table.putD t n d v) m d = if m = n then v else Table.getD t m d := by
  unfold Table.getD Table.putD
  by_cases hv : v = d
  · rw [if_pos hv]
    by_cases hm : m = n
    · rw [hm, Table.lookup_remove_self, if_pos rfl, hv]
      rfl
    · rw [Table.lookup_remove_ne t hm, if_neg hm]
  · rw [if_neg hv]
    by_cases hm : m = n
    · rw [hm, Table.lookup_put_self, if_pos rfl]
      rfl
    · rw [Table.lookup_put_ne t v hm, if_neg hm]

theorem setSlot_sm (w : Work) (n : Nat) (st : SlotState) :
    (w.setSlot n st).acct.sm = { w.acct.sm with slots := Table.putD w.acct.sm.slots n w.acct.sm.base st } := by
  unfold Work.setSlot
  dsimp only
  split <;> split <;> rfl

/-- R109: a slot reads as written, and every other slot as before. -/
theorem slot_setSlot (w : Work) (n m : Nat) (st : SlotState) :
    (w.setSlot n st).acct.slot m = if m = n then st else w.acct.slot m := by
  unfold Account.slot
  rw [setSlot_sm]
  exact getD_putD _ _ _ _ _

/-! ### Steps -/

namespace Settles

variable {u w : Work}

theorem tryStaging (h : Settles u w) : Settles u w.tryStaging := h.trans ⟨.refl _, rfl⟩

/-- A change of the queue, or of the owners that wait for room. -/
theorem onDu (f : DispatchUnit → DispatchUnit) (h : Settles u w)
    (hs : (f w.acct.du).state = w.acct.du.state := by rfl)
    (hg : ∀ m, w.acct.du.staged = some m → (f w.acct.du).staged = some m := by exact fun _ h => h)
    (hi : w.acct.du.state ≠ .running → (f w.acct.du).staged = w.acct.du.staged := by exact fun _ => rfl)
    (ht : (f w.acct.du).taken = w.acct.du.taken := by rfl)
    (hw : (f w.acct.du).watchdog = w.acct.du.watchdog := by rfl) : Settles u (w.onDu f) :=
  h.trans ⟨{ Follows.refl w.acct with dispatch := hs, staged := hg, idle := hi, taken := .inl ⟨ht, hw⟩ }, rfl⟩

theorem notify (p : Port) (n : Notice) (h : Settles u w) : Settles u (w.notify p n) :=
  h.trans ⟨.notified _ p n, rfl⟩

theorem routing (f : List Nat → List Nat) (h : Settles u w) :
    Settles u (w.onQu (fun q => { q with routing := f q.routing })) :=
  h.trans ⟨{ Follows.refl w.acct with }, rfl⟩

theorem gate (b : Bool) (h : Settles u w) : Settles u (w.onSm (fun sm => { sm with gateOpen := b })) :=
  h.trans ⟨{ Follows.refl w.acct with }, rfl⟩

/-- An EMPTY station is marked. -/
theorem markStation (hs : w.acct.qu.station = .empty) (h : Settles u w) :
    Settles u (w.onQu (fun q => { q with station := .expected })) :=
  h.trans ⟨{ Follows.refl w.acct with station := .inr ⟨hs, rfl⟩ }, rfl⟩

/-- An EMPTY position is marked INCOMING, and its lapse is cleared. -/
theorem markPosition (k : Scanner) (hk : (w.acct.xu[k]).position = .empty) (h : Settles u w) :
    Settles u (w.onXu k (fun x => { x with position := .incoming, lapse := false })) := by
  refine h.trans ⟨{ Follows.refl w.acct with exchange := fun l => ?_ }, rfl⟩
  by_cases hkl : k = l
  · subst hkl
    exact .inr ⟨hk, by simp⟩
  · have : k.val ≠ l.val := fun e => hkl (Fin.ext e)
    exact .inl (by simp [this])

/-- The record of a VERIFY of slot n follows the slot; another move stays. -/
theorem followSlot_other (n : Nat) (s : Option Nat) (m : Move) (h : ¬(m.kind = .verify ∧ m.source = .slot n)) :
    Work.followSlot n s m = m := by
  unfold Work.followSlot
  rw [if_neg h]

theorem map_followSlot (n : Nat) (s : Option Nat) (o : Option Move)
    (h : ∀ m, o = some m → ¬(m.kind = .verify ∧ m.source = .slot n)) : o.map (Work.followSlot n s) = o := by
  cases o with
  | none => rfl
  | some m => rw [Option.map_some, followSlot_other n s m (h m rfl)]

/-- What writing a slot does beside the slot (R109, R120). -/
theorem setSlot_rest (w : Work) (n : Nat) (st : SlotState) :
    ((w.setSlot n st).acct =
      { w.acct with
        sm := { w.acct.sm with slots := Table.putD w.acct.sm.slots n w.acct.sm.base st }
        du := { w.acct.du with
                queue := w.acct.du.queue.map (Work.followSlot n (Work.occupant st))
                staged := w.acct.du.staged.map (Work.followSlot n (Work.occupant st))
                taken := w.acct.du.taken.map (Work.followSlot n (Work.occupant st)) } })
      ∧ (w.setSlot n st).todo.pages = w.todo.pages := by
  unfold Work.setSlot
  dsimp only
  split <;> split <;> exact ⟨rfl, rfl⟩

/-- An EMPTY slot that no VERIFY STAGED or taken examines is marked. -/
theorem markSlot (n : Nat) (mv : Nat) (hn : w.acct.slot n = .empty)
    (hg : ∀ m, w.acct.du.staged = some m → ¬(m.kind = .verify ∧ m.source = .slot n))
    (ht : ∀ m, w.acct.du.taken = some m → ¬(m.kind = .verify ∧ m.source = .slot n)) (h : Settles u w) :
    Settles u (w.setSlot n (.expected mv)) := by
  refine h.trans ⟨?_, (setSlot_rest w n _).2⟩
  have hm (m : Nat) : (w.setSlot n (.expected mv)).acct.slot m = w.acct.slot m
      ∨ w.acct.slot m = .empty ∧ ∃ x, (w.setSlot n (.expected mv)).acct.slot m = .expected x := by
    rw [slot_setSlot]
    by_cases hmn : m = n
    · subst hmn
      exact .inr ⟨hn, mv, if_pos rfl⟩
    · exact .inl (if_neg hmn)
  rw [(setSlot_rest w n _).1] at hm ⊢
  exact
    { Follows.refl w.acct with
      staged := fun m hm => by rw [map_followSlot n _ _ hg]; exact hm
      idle := fun _ => map_followSlot n _ _ hg
      taken := .inl ⟨map_followSlot n _ _ ht, rfl⟩
      slot := hm }

theorem addMove (kind : MoveKind) (subject : Option Nat) (source : Place) (dest : Dest) (priority : Priority)
    (cause : Option CauseClaim) (h : Settles u w) : Settles u (w.addMove kind subject source dest priority cause) := by
  unfold Work.addMove
  exact (h.onDu _).tryStaging

theorem foldl {α : Type} (f : Work → α → Work) (hf : ∀ w x, Settles w (f w x)) (l : List α)
    (h : Settles u w) : Settles u (l.foldl f w) := by
  induction l generalizing w with
  | nil => exact h
  | cons x l ih => exact ih (h.trans (hf w x))

/-! ### Room, grants and routing -/

theorem giveExchange (k : Scanner) (h : Settles u w) : Settles u (w.giveExchange k) := by
  unfold Work.giveExchange
  split
  · dsimp only
    split
    · exact addMove _ _ _ _ _ _ (h.onDu _ rfl)
    · exact addMove _ _ _ _ _ _ (h.onDu _ rfl)
    · exact h.onDu _ rfl
  · exact h

theorem giveStation (h : Settles u w) : Settles u w.giveStation := by
  unfold Work.giveStation
  split
  · dsimp only
    split
    · exact addMove _ _ _ _ _ _ (h.onDu _ rfl)
    · exact h.onDu _ rfl
  · exact h

theorem giveFetch (r : Nat) (h : Settles u w) : Settles u (w.giveFetch r) := by
  unfold Work.giveFetch
  split
  · dsimp only
    split
    · exact addMove _ _ _ _ _ _ (h.onDu _ rfl)
    · exact h.onDu _ rfl
  · exact h

theorem giveCustody (r : Nat) (h : Settles u w) : Settles u (w.giveCustody r) := by
  unfold Work.giveCustody
  split
  · dsimp only
    split
    · split
      · exact addMove _ _ _ _ _ _ (h.onDu _ rfl)
      · exact addMove _ _ _ _ _ _ (h.onDu _ rfl)
      · exact h.onDu _ rfl
    · exact h.onDu _ rfl
  · exact h

theorem giveFirst (h : Settles u w) : Settles u w.giveFirst := by
  unfold Work.giveFirst
  split
  · dsimp only
    apply foldl _ (fun w r => (refl w).giveFetch r)
    apply giveStation
    exact foldl _ (fun w k => (refl w).giveExchange k) _ h
  · exact h

theorem giveRetirements (h : Settles u w) : Settles u w.giveRetirements := by
  unfold Work.giveRetirements
  split
  · exact foldl _ (fun w r => (refl w).giveCustody r) _ h
  · exact h

/-- A claim keeps its terms when its state or its wait for room changes. -/
theorem onClaim (c : Nat) (f : Claim → Claim) (hf : ∀ x, (f x).terms = x.terms)
    (hg : ∀ x, x.state = .granted → (f x).state = .granted) (h : Settles u w) : Settles u (w.onClaim c f) :=
  h.trans
    ⟨{ Follows.refl w.acct with
        claim := fun n x hx => by
          rw [Work.onClaim_claims, Table.lookup_modify]
          by_cases hn : n = c
          · rw [if_pos hn, hx]
            exact ⟨f x, rfl, hg x, hf x⟩
          · rw [if_neg hn]
            exact ⟨x, hx, fun h => h, rfl⟩
        noClaim := fun n hx => by
          rw [Work.onClaim_claims, Table.lookup_modify, hx]
          simp }, rfl⟩

/-- A STORED record changes in its claim queue only, or is allotted. -/
theorem onStored (r : Nat) (f : Record → Record) (hf : ∀ x, (f x).rest = x.rest)
    (hc : ∀ x, (f x).custody = x.custody ∧ (f x).holder = x.holder ∨ (f x).custody = .allotted)
    (hq : ∀ x, (f x).claimQueue.Sublist x.claimQueue)
    (hs : ∀ x, u.acct.record r = some x → x.custody = .stored) (h : Settles u w) : Settles u (w.onRecord r f) := by
  refine ⟨{ h.follows with record := fun n x hx => ?_, noRecord := fun n hx => ?_ }, h.pages⟩
  · obtain ⟨y, hy, h1, h2, h3, h4⟩ := h.follows.record n x hx
    rw [Account.record] at hy
    rw [Account.record, Work.onRecord_records, Table.lookup_modify]
    by_cases hn : n = r
    · subst hn
      rw [if_pos rfl, hy]
      refine ⟨f y, rfl, fun e => absurd (hs x hx) e, (hf y).trans h2, fun e => ?_, (hq y).trans h4⟩
      rcases hc y with g | g
      · rcases h3 e with k | k
        · exact .inl ⟨g.1.trans k.1, g.2.trans k.2⟩
        · exact .inr (g.1.trans k)
      · exact .inr g
    · rw [if_neg hn]
      exact ⟨y, hy, h1, h2, h3, h4⟩
  · have := h.follows.noRecord n hx
    rw [Account.record] at this
    rw [Account.record, Work.onRecord_records, Table.lookup_modify, this]
    simp

theorem foldlMem {α : Type} (f : Work → α → Work) (l : List α)
    (hf : ∀ (w : Work) (x : α), x ∈ l → Settles u w → Settles u (f w x)) (h : Settles u w) :
    Settles u (l.foldl f w) := by
  induction l generalizing w with
  | nil => exact h
  | cons x l ih =>
    exact ih (fun w y hy => hf w y (List.mem_cons_of_mem _ hy)) (hf w x List.mem_cons_self h)

theorem allot (claim : Claim) (r : Nat) (hs : ∀ x, u.acct.record r = some x → x.custody = .stored)
    (h : Settles u w) : Settles u (Work.allot claim w r) := by
  unfold Work.allot
  split
  · exact h
  · have h1 := onStored r (fun x => { x with custody := .allotted, holder := some claim.tool }) (fun _ => rfl)
      (fun _ => .inr rfl) (fun _ => List.Sublist.refl _) hs h
    dsimp only
    split
    · exact addMove _ _ _ _ _ _ h1
    · exact h1

/-- R36: every member of a claim that is ready for its grant is STORED. -/
theorem members_stored (a : Account) (c : Nat) (claim : Claim) (hg : Work.grantReady a c claim = true) (r : Nat)
    (hr : r ∈ claim.members.filterMap (·.record)) (x : Record) (hx : a.record r = some x) : x.custody = .stored := by
  obtain ⟨m, hm, hmr⟩ := List.mem_filterMap.mp hr
  unfold Work.grantReady at hg
  rw [Bool.and_eq_true, Bool.and_eq_true] at hg
  have h1 := List.all_eq_true.mp hg.1.1 m hm
  unfold Work.memberReady at h1
  simp only [hmr, hx] at h1
  simp only [Bool.and_eq_true, decide_eq_true_eq] at h1
  exact h1.1.1.1.1.1.2

theorem leaveRoom (c : Nat) (h : Settles u w) : Settles u (w.leaveRoom c) :=
  h.onClaim c _ (fun _ => rfl) (fun _ hx => hx)

theorem checkNewHead (r : Nat) (h : Settles u w) : Settles u (w.checkNewHead r) := by
  unfold Work.checkNewHead
  split
  · exact h.leaveRoom _
  · exact h

theorem grant (c : Nat) (claim : Claim) (hg : Work.grantReady w.acct c claim = true) :
    Settles w (w.grant c claim) := by
  unfold Work.grant
  dsimp only
  apply notify
  apply foldl _ (fun w r => (refl w).checkNewHead r)
  have hs := members_stored w.acct c claim hg
  apply foldlMem _ _ (fun v r hr h => h.allot claim r (hs r hr))
  apply foldlMem _ _ (fun v r hr h =>
    h.onStored r (fun x => { x with claimQueue := x.claimQueue.filter (· ≠ c) }) (fun _ => rfl)
      (fun _ => .inl ⟨rfl, rfl⟩) (fun _ => List.filter_sublist) (hs r hr))
  exact (refl w).onClaim c (fun x => { x with state := .granted, heldForRoom := false }) (fun _ => rfl)
    (fun _ _ => rfl)

theorem examine (c : Nat) (h : Settles u w) : Settles u (w.examine c) := by
  refine h.trans ?_
  unfold Work.examine
  split
  · exact refl _
  · split
    · split
      · rename_i hg
        split
        · exact grant c _ hg
        · exact (refl w).onClaim c _ (fun _ => rfl) (fun _ hx => hx)
      · exact (refl w).leaveRoom c
    · exact refl _

theorem checkGrants (h : Settles u w) : Settles u w.checkGrants :=
  foldl _ (fun w _ => (refl w).examine _) _ h

theorem addToStation (r : Nat) (h : Settles u w) : Settles u (w.addToStation r) := by
  unfold Work.addToStation
  split
  · exact h.addMove _ _ _ _ _ _
  · exact h

theorem route (q : Nat × Bool) (h : Settles u w) : Settles u (w.route q) := by
  unfold Work.route
  split
  · split
    · exact h
    · split
      · exact h.addToStation _
      · exact h.routing (fun l => l ++ [q.1])
  · exact h

theorem offerListed (r : Nat) (h : Settles u w) : Settles u (w.offerListed r) := by
  unfold Work.offerListed
  split
  · exact addToStation r (h.routing (fun l => l.filter (· ≠ r)))
  · exact h

theorem offerRouting (h : Settles u w) : Settles u w.offerRouting := by
  unfold Work.offerRouting
  split
  · exact foldl _ (fun w r => (refl w).offerListed r) _ h
  · exact h

/-! ### Staging -/

theorem candidate_empty {a : Account} {left : List Nat} {e : Option Nat} {n : Nat}
    (h : a.candidate left e n = true) : a.slot n = .empty ∧ a.underVerify n = false := by
  unfold Account.candidate at h
  simp only [Bool.and_eq_true, Bool.not_eq_true'] at h
  have h1 := h.1.1.1
  unfold Account.freeSlot at h1
  simp only [Bool.and_eq_true, decide_eq_true_eq] at h1
  exact ⟨h1.1, h.1.1.2⟩

/-- R113: a slot chosen is EMPTY, and no VERIFY move examines it. -/
theorem chooseSlot_empty {a : Account} {subject : Option Nat} {left : List Nat} {e : Option Nat} {n : Nat}
    (h : a.chooseSlot subject left e = some n) : a.slot n = .empty ∧ a.underVerify n = false := by
  unfold Account.chooseSlot at h
  split at h
  · split at h
    · rename_i hc
      cases h
      rw [Bool.and_eq_true] at hc
      exact candidate_empty hc.2
    · exact candidate_empty (List.find?_some h)
  · exact candidate_empty (List.find?_some h)

/-- R119: no VERIFY of a slot that is not under one is STAGED or taken. -/
theorem not_verify {a : Account} {n : Nat} (h : a.underVerify n = false) (m : Move) (hm : m ∈ a.moves) :
    ¬(m.kind = .verify ∧ m.source = .slot n) := by
  intro hk
  unfold Account.underVerify at h
  rw [List.any_eq_false] at h
  exact h m hm (by simp [hk.1, hk.2])

theorem mem_moves_staged {a : Account} {m : Move} (h : a.du.staged = some m) : m ∈ a.moves := by
  unfold Account.moves
  rw [h]
  simp

theorem mem_moves_taken {a : Account} {m : Move} (h : a.du.taken = some m) : m ∈ a.moves := by
  unfold Account.moves
  rw [h]
  simp

/-- The move as R63 stages it. -/
def asStaged (a : Account) (m : Move) : Move := { m with dest := Work.fixedDest a m, state := .staged }

/-- R63: the move leaves the queue for the STAGED place, which was empty. -/
theorem toStaged (m : Move) (hr : w.acct.du.state = .running) (hg : w.acct.du.staged = none) :
    Settles w (w.onDu (fun du =>
      { du with
        queue := du.queue.filter (fun x => x.number ≠ m.number)
        staged := some (asStaged w.acct m) })) :=
  (refl w).onDu _ rfl (fun x hx => by rw [hg] at hx; cases hx) (fun h => absurd hr h)

/-- R62, R63: what an eligible move marks is EMPTY. -/
theorem markDest_eligible (m : Move) (he : Work.eligible w.acct m = true) (v : Work)
    (hst : v.acct.du.staged = some (asStaged w.acct m)) (htk : v.acct.du.taken = w.acct.du.taken)
    (hsm : v.acct.sm = w.acct.sm) (hxu : v.acct.xu = w.acct.xu) (hqu : v.acct.qu = w.acct.qu) (h : Settles w v) :
    Settles w (v.markDest (asStaged w.acct m)) := by
  have marks (n : Nat) (hn : w.acct.slot n = .empty)
      (ht : ∀ x, w.acct.du.taken = some x → ¬(x.kind = .verify ∧ x.source = .slot n)) (hk : m.kind ≠ .verify) :
      Settles w (v.setSlot n (.expected m.number)) := by
    refine h.markSlot n m.number ?_ ?_ ?_
    · unfold Account.slot at hn ⊢
      rw [hsm]
      exact hn
    · intro x hx
      rw [hst] at hx
      cases hx
      exact fun e => hk e.1
    · rw [htk]
      exact ht
  have chosen (hc : Work.choosable w.acct m = true) (hk : m.kind ≠ .verify) :
      Settles w (v.markDest (asStaged w.acct m)) := by
    unfold Work.choosable at hc
    rw [Bool.and_eq_true, decide_eq_true_eq] at hc
    obtain ⟨n, hn⟩ := Option.isSome_iff_exists.mp hc.2
    have hd : Work.fixedDest w.acct m = .at (.slot n) := by
      unfold Work.fixedDest
      rw [hc.1, hn]
    unfold Work.markDest asStaged
    rw [hd]
    have hs := chooseSlot_empty hn
    exact marks n hs.1 (fun x hx => not_verify hs.2 x (mem_moves_taken hx)) hk
  have kept (hd : m.dest = .absent) : Settles w (v.markDest (asStaged w.acct m)) := by
    unfold Work.markDest asStaged Work.fixedDest
    rw [hd]
    exact h
  unfold Work.eligible at he
  split at he
  · rename_i hk
    exact chosen he (by rw [hk]; decide)
  · rename_i hk
    exact chosen he (by rw [hk]; decide)
  · rename_i hk
    exact chosen (Bool.and_eq_true _ _ ▸ he).1 (by rw [hk]; decide)
  · rename_i hk
    exact chosen (Bool.and_eq_true _ _ ▸ he).1 (by rw [hk]; decide)
  · split at he
    · rename_i k hk
      unfold Work.consents at he
      simp only [Bool.and_eq_true, decide_eq_true_eq] at he
      unfold Work.markDest asStaged Work.fixedDest
      rw [hk]
      refine h.markPosition k ?_
      rw [hxu]
      exact he.1.1.1
    · cases he
  · rw [Bool.and_eq_true, decide_eq_true_eq, decide_eq_true_eq] at he
    unfold Work.markDest asStaged Work.fixedDest
    rw [he.1]
    refine h.markStation ?_
    rw [hqu]
    exact he.2
  · simp only [Bool.and_eq_true, decide_eq_true_eq] at he
    unfold Work.markDest asStaged Work.fixedDest
    rw [he.1.1]
    exact h
  · rename_i hk
    split at he
    · rename_i n hn
      unfold Work.relocatable Account.freeSlot at he
      simp only [Bool.and_eq_true, decide_eq_true_eq] at he
      unfold Work.markDest asStaged Work.fixedDest
      rw [hn]
      refine marks n he.1.1 (fun x hx e => ?_) (by rw [hk]; decide)
      have := List.all_eq_true.mp he.2 x (by rw [hx]; simp)
      simp [e.1, e.2] at this
    · exact chosen he (by rw [hk]; decide)
  · simp only [Bool.and_eq_true, decide_eq_true_eq] at he
    exact kept he.1

theorem stageMove (m : Move) (he : Work.eligible w.acct m = true) (hr : w.acct.du.state = .running)
    (hg : w.acct.du.staged = none) :
    Settles w (w.stageMove m) := by
  unfold Work.stageMove
  dsimp only
  apply notify
  exact markDest_eligible m he _ rfl rfl rfl rfl rfl (toStaged m hr hg)

/-- R71: a NO_SLOT hold ends in a chosen slot. -/
theorem redirected (m : Move) (n : Nat) (hm : w.acct.du.taken = some m) (hh : m.state = .holding .noSlot)
    (hn : w.acct.chooseSlot m.subject m.leftSlots none = some n) :
    Settles w (((w.setSlot n (.expected m.number)).onDu (fun du =>
      { du with taken := some { m with dest := .at (.slot n), state := .carrying } })).startWatchdog) := by
  have hs := chooseSlot_empty hn
  have h1 : Settles w (w.setSlot n (.expected m.number)) :=
    (refl w).markSlot n m.number hs.1 (fun x hx => not_verify hs.2 x (mem_moves_staged hx))
      (fun x hx => not_verify hs.2 x (mem_moves_taken hx))
  exact ⟨{ h1.follows with taken := .inr ⟨m, n, hm, hh, rfl, (slot_setSlot w n n _).trans (if_pos rfl)⟩ }, h1.pages⟩

theorem redirectNoSlot (h : Settles u w) : Settles u w.redirectNoSlot := by
  unfold Work.redirectNoSlot
  split
  · rename_i m hm
    split
    · rename_i hh
      split
      · rename_i n hn
        exact (h.trans (redirected m n hm hh hn)).notify _ _
      · exact h
    · exact h
  · exact h

theorem stageFirst (h : Settles u w) : Settles u w.stageFirst := by
  refine h.trans ?_
  unfold Work.stageFirst
  split
  · rename_i hg
    split
    · rename_i hm
      exact stageMove _ (by simpa using List.find?_some hm) hg.2.1 hg.1
    · exact refl _
  · exact refl _

theorem settleStaging (h : Settles u w) : Settles u w.settleStaging := by
  unfold Work.settleStaging
  split
  · exact h.redirectNoSlot.stageFirst
  · exact h

theorem judge (h : Settles u w) : Settles u w.judge := by
  unfold Work.judge
  dsimp only
  split
  · exact h
  · exact notify _ _ (h.gate _)

theorem settleGate (h : Settles u w) : Settles u w.settleGate := by
  unfold Work.settleGate
  split
  · exact h.judge
  · exact h

/-- Everything that settling an event changes of the account. -/
theorem settle (w : Work) : Settles w w.settle := by
  unfold Work.settle
  dsimp only
  apply settleGate
  apply settleStaging
  apply foldl _ (fun w q => (refl w).route q)
  exact (refl w).giveFirst.checkGrants.giveRetirements.offerRouting

end Settles

/-! ### Events that bring no claim up and offer no room -/

/-- The second work record has the first's records and claims. -/
def SameBooks (u w : Work) : Prop := w.acct.records = u.acct.records ∧ w.acct.claims = u.acct.claims

namespace SameBooks

variable {u w : Work}

theorem refl (w : Work) : SameBooks w w := ⟨rfl, rfl⟩

theorem trans {u v w : Work} (h : SameBooks u v) (g : SameBooks v w) : SameBooks u w :=
  ⟨g.1.trans h.1, g.2.trans h.2⟩

theorem foldl {α : Type} (f : Work → α → Work) (hf : ∀ w x, SameBooks w (f w x)) (l : List α) (w : Work) :
    SameBooks w (l.foldl f w) := by
  induction l generalizing w with
  | nil => exact refl w
  | cons x l ih => exact (hf w x).trans (ih _)

theorem setSlot (w : Work) (n : Nat) (st : SlotState) : SameBooks w (w.setSlot n st) := by
  unfold SameBooks
  rw [(Settles.setSlot_rest w n st).1]
  exact ⟨rfl, rfl⟩

theorem tryOpen (w : Work) (k : Scanner) : SameBooks w (w.tryOpen k) := by
  unfold Work.tryOpen
  dsimp only
  split
  · split
    · split <;> exact ⟨rfl, rfl⟩
    · exact ⟨rfl, rfl⟩
  · exact ⟨rfl, rfl⟩

theorem emptyPosition (w : Work) (k : Scanner) : SameBooks w (w.emptyPosition k) :=
  trans (v := w.onXu k (fun x => { x with position := .empty, timer := none })) ⟨rfl, rfl⟩ (tryOpen _ k)

theorem doubtPosition (w : Work) (k : Scanner) : SameBooks w (w.doubtPosition k) := ⟨rfl, rfl⟩

theorem releaseMark (w : Work) (m : Move) : SameBooks w (w.releaseMark m) := by
  unfold Work.releaseMark
  split
  · split
    · exact setSlot w _ _
    · exact refl w
  · split
    · exact emptyPosition w _
    · exact refl w
  · split <;> exact ⟨rfl, rfl⟩
  · exact refl w

theorem stopHold (w : Work) (m : Move) : SameBooks w (w.stopHold m) := by
  unfold Work.stopHold
  split <;> exact ⟨rfl, rfl⟩

theorem dropMove (w : Work) (m : Move) : SameBooks w (w.dropMove m) := by
  unfold Work.dropMove
  split
  · exact trans (v := (w.onDu (fun du => { du with staged := none })).releaseMark m)
      (trans (v := w.onDu (fun du => { du with staged := none })) ⟨rfl, rfl⟩ (releaseMark _ m)) ⟨rfl, rfl⟩
  · exact ⟨rfl, rfl⟩

theorem withdraw (w : Work) (m : Move) : SameBooks w (w.withdraw m) := dropMove w m

theorem withdrawNaming (w : Work) (r : Nat) : SameBooks w (w.withdrawNaming r) := by
  unfold Work.withdrawNaming
  split
  · exact withdraw w _
  · exact refl w

theorem withdrawToQueue (w : Work) : SameBooks w w.withdrawToQueue := by
  unfold Work.withdrawToQueue
  split
  · exact refl w
  · dsimp only
    exact trans (v := (w.onDu (fun du => { du with staged := none })).releaseMark _)
      (trans (v := w.onDu (fun du => { du with staged := none })) ⟨rfl, rfl⟩ (releaseMark _ _)) ⟨rfl, rfl⟩

theorem redirect (w : Work) (m : Move) (released : Bool) (emptied : Option Nat) :
    SameBooks w (w.redirect m released emptied) := by
  unfold Work.redirect
  dsimp only
  have h : SameBooks w ((if released then w.releaseMark m else w).stopHold m) := by
    refine trans ?_ (stopHold _ m)
    split
    · exact releaseMark w m
    · exact refl w
  split
  · exact (h.trans (setSlot _ _ _)).trans ⟨rfl, rfl⟩
  · exact (h.trans (setSlot _ _ _)).trans ⟨rfl, rfl⟩
  · exact h.trans ⟨rfl, rfl⟩

theorem redirectNotice (w : Work) (m : Move) : SameBooks w (w.redirectNotice m) := by
  unfold Work.redirectNotice
  split <;> exact ⟨rfl, rfl⟩

theorem addToStation (w : Work) (r : Nat) : SameBooks w (w.addToStation r) := by
  unfold Work.addToStation
  split <;> exact ⟨rfl, rfl⟩

theorem route (w : Work) (q : Nat × Bool) : SameBooks w (w.route q) := by
  unfold Work.route
  split
  · split
    · exact refl w
    · split
      · exact addToStation w _
      · exact ⟨rfl, rfl⟩
  · exact refl w

theorem markDest (w : Work) (m : Move) : SameBooks w (w.markDest m) := by
  unfold Work.markDest
  split
  · exact setSlot w _ _
  · exact ⟨rfl, rfl⟩
  · exact ⟨rfl, rfl⟩
  · exact refl w

theorem stageMove (w : Work) (m : Move) : SameBooks w (w.stageMove m) := by
  unfold Work.stageMove
  dsimp only
  have h := markDest (w.onDu (fun du =>
    { du with
      queue := du.queue.filter (fun x => x.number ≠ m.number)
      staged := some (Settles.asStaged w.acct m) })) (Settles.asStaged w.acct m)
  exact ⟨h.1, h.2⟩

theorem stageFirst (w : Work) : SameBooks w w.stageFirst := by
  unfold Work.stageFirst
  split
  · split
    · exact stageMove w _
    · exact refl w
  · exact refl w

theorem redirectNoSlot (w : Work) : SameBooks w w.redirectNoSlot := by
  unfold Work.redirectNoSlot
  split
  · rename_i m _
    split
    · split
      · rename_i n _
        have h := setSlot w n (.expected m.number)
        exact ⟨h.1, h.2⟩
      · exact refl w
    · exact refl w
  · exact refl w

theorem settleStaging (w : Work) : SameBooks w w.settleStaging := by
  unfold Work.settleStaging
  split
  · exact (redirectNoSlot w).trans (stageFirst _)
  · exact refl w

theorem judge (w : Work) : SameBooks w w.judge := by
  unfold Work.judge
  dsimp only
  split
  · exact refl w
  · exact ⟨by simp only [Work.notify_records, Work.onSm_records], by simp only [Work.notify_claims, Work.onSm_claims]⟩

theorem settleGate (w : Work) : SameBooks w w.settleGate := by
  unfold Work.settleGate
  split
  · exact judge w
  · exact refl w

/-- R37, R59: where no claim comes up and no room is offered or freed, settling leaves the records and the claims. -/
theorem settle (w : Work) (hb : w.todo.broughtUp = []) (ho : w.todo.offer = false) (hf : w.todo.freed = false) :
    SameBooks w w.settle := by
  unfold Work.settle Work.giveFirst
  simp only [ho, Bool.false_eq_true, if_false]
  have h : w.checkGrants.giveRetirements.offerRouting = w := by
    unfold Work.checkGrants Work.offersGrants Work.giveRetirements Work.offerRouting
    simp [hb, ho, hf, Work.sortBy]
  rw [h]
  exact ((foldl _ route _ w).trans (settleStaging _)).trans (settleGate _)

end SameBooks

end Sys2Proof.Laws
end

