-- ==== Sys2Proof/Laws/Take.lean ====
section
/-! SUPPORT. What the end of an event leaves (R12, R37, R59, R61, R116, R165), and what taking a request answers
(R180). -/

namespace Sys2Proof.Machine

/-! ### Handing over (R12, R165, R166) -/

theorem ArrayKept.refl (a : RetentionStore) : ArrayKept a a := ⟨rfl, rfl, rfl, rfl, rfl, rfl, rfl, rfl⟩

theorem ArrayKept.trans {a b c : RetentionStore} (h : ArrayKept a b) (g : ArrayKept b c) : ArrayKept a c :=
  ⟨g.headerPage.trans h.headerPage, g.recordPages.trans h.recordPages, g.sparePages.trans h.sparePages,
    g.spareMap.trans h.spareMap, g.owed.trans h.owed, g.mark.trans h.mark, g.syncRequest.trans h.syncRequest,
    g.format.trans h.format⟩

/-- R12: a retention status is the one field of a record that handing over changes. -/
theorem Follows.setRetention (s : State) (n : Nat) (v : Retention) : Follows s.acct (s.setRetention n v).acct :=
  { Follows.refl s.acct with
    record := fun r x hx => by
      show ∃ y, Table.lookup (Table.modify s.acct.records n _) r = some y ∧ _
      rw [Table.lookup_modify]
      by_cases hr : r = n
      · rw [if_pos hr, show Table.lookup s.acct.records r = some x from hx]
        exact ⟨_, rfl, fun _ => rfl, rfl, fun h => .inl ⟨h, rfl⟩, List.Sublist.refl _⟩
      · rw [if_neg hr]
        exact ⟨x, hx, fun _ => rfl, rfl, fun h => .inl ⟨h, rfl⟩, List.Sublist.refl _⟩
    noRecord := fun r hr => by
      show Table.lookup (Table.modify s.acct.records n _) r = none
      rw [Table.lookup_modify, show Table.lookup s.acct.records r = none from hr]
      simp }

end Sys2Proof.Machine

namespace Sys2Proof.Laws

open Sys2Proof.Machine

/-- What handing pages over does to the state. -/
structure Hands (s : State) (pages : List PageId) (t : State) : Prop where
  account : Follows s.acct t.acct
  array : ArrayKept s.store t.store
  pages : ∀ p ∈ pages, Awaits t p
  awaits : ∀ p, Awaits s p → Awaits t p
  freeIndex : t.freeIndex = s.freeIndex
  pending : t.pending = s.pending
  power : t.power = s.power
  links : t.links = s.links

namespace Hands

theorem refl (s : State) : Hands s [] s :=
  ⟨.refl _, .refl _, fun _ h => absurd h List.not_mem_nil, fun _ h => h, rfl, rfl, rfl, rfl⟩

theorem trans {s t u : State} {p q : List PageId} (h : Hands s p t) (g : Hands t q u) : Hands s (p ++ q) u where
  account := h.account.trans g.account
  array := h.array.trans g.array
  pages x hx := (List.mem_append.mp hx).elim (fun hx => g.awaits x (h.pages x hx)) (g.pages x)
  awaits x hx := g.awaits x (h.awaits x hx)
  freeIndex := g.freeIndex.trans h.freeIndex
  pending := g.pending.trans h.pending
  power := g.power.trans h.power
  links := g.links.trans h.links

theorem markQueued (s : State) (p : PageId) : Hands s [] (s.markQueued p) := by
  unfold State.markQueued
  split
  · exact ⟨.setRetention s _ _, .refl _, fun _ h => absurd h List.not_mem_nil, fun _ h => h, rfl, rfl, rfl, rfl⟩
  · exact refl s

theorem mem_headerFirst {q : List PageId} {p : PageId} (h : p ∈ q) : p ∈ State.headerFirst q := by
  unfold State.headerFirst
  by_cases hp : p = .header
  · exact hp ▸ List.mem_cons_self
  · exact List.mem_cons_of_mem _ (List.mem_filter.mpr ⟨h, by simp [hp]⟩)

theorem mem_ordered {mark : Bool} {q : List PageId} {p : PageId} (h : p ∈ q) : p ∈ State.ordered mark q := by
  unfold State.ordered
  split
  · exact mem_headerFirst h
  · exact h

theorem enqueue (s : State) (p : PageId) : Hands s [p] (s.enqueue p) := by
  unfold State.enqueue
  split
  · rename_i hp
    exact { refl s with pages := fun q hq => .inl (List.mem_singleton.mp hq ▸ hp) }
  · exact
      { account := .refl _, array := ⟨rfl, rfl, rfl, rfl, rfl, rfl, rfl, rfl⟩
        pages := fun q h => .inl (mem_ordered (List.mem_append_right _ h))
        awaits := fun q h => h.elim (fun h => .inl (mem_ordered (List.mem_append_left _ h))) .inr
        freeIndex := rfl, pending := rfl, power := rfl, links := rfl }

theorem restage (s : State) : Hands s [] s.restage :=
  ⟨.refl _, ⟨rfl, rfl, rfl, rfl, rfl, rfl, rfl, rfl⟩, fun _ h => absurd h List.not_mem_nil, fun _ h => h, rfl, rfl, rfl, rfl⟩

theorem startHead (s : State) (hn : s.store.inFlight = none) : Hands s [] s.startHead := by
  unfold State.startHead
  split
  · exact refl s
  · rename_i p rest hq
    refine ⟨.refl _, ⟨rfl, rfl, rfl, rfl, rfl, rfl, rfl, rfl⟩,
      fun _ h => absurd h List.not_mem_nil, fun q h => ?_, rfl, rfl, rfl, rfl⟩
    rcases h with h | ⟨pr, h, _⟩
    · rw [hq, List.mem_cons] at h
      rcases h with rfl | h
      · exact .inr ⟨_, rfl, rfl⟩
      · exact .inl h
    · rw [hn] at h
      cases h

/-- Everything a hand-over does. -/
theorem handOver (s : State) (p : PageId) : Hands s [p] (s.handOver p) := by
  have h := (markQueued s p).trans (enqueue (s.markQueued p) p)
  unfold State.handOver
  dsimp only
  split
  · exact h
  · split
    · rename_i hn
      exact List.append_nil [p] ▸ h.trans (startHead _ (Option.isNone_iff_eq_none.mp hn))
    · exact List.append_nil [p] ▸ h.trans (restage _)

theorem foldl (l : List PageId) (s : State) : Hands s l (l.foldl State.handOver s) := by
  induction l generalizing s with
  | nil => exact refl s
  | cons p l ih => exact (handOver s p).trans (ih _)

end Hands

/-! ### The end of an event -/

/-- Everything the end of an event does: settling and handing over (R12, R37, R59, R61, R116, R165). -/
theorem commit_ends (s : State) (w : Work) : Ends s w.acct w.todo.pages (s.commit w) := by
  have h := Settles.settle w
  have g := Hands.foldl w.settle.todo.pages { s with acct := w.settle.acct }
  rw [h.pages] at g
  unfold State.commit
  dsimp only
  rw [h.pages]
  exact ⟨h.follows.trans g.account, g.array, g.pages, g.freeIndex, g.pending, g.power⟩

/-- What a command's own effect tells a port, the event's end leaves in front of what it adds. -/
theorem tells_of_follows {s t : State} {a : Account} {p : Port} {l : List Notice} (h : Follows a t.acct)
    (ha : (l.foldl NoticeState.enter (s.acct.notices.get p)).queue <+: (a.notices.get p).queue) : Tells s t p l :=
  ha.trans (h.notices p)

/-- An event that leaves nothing to settle settles to itself. -/
theorem settle_idle (w : Work) (hb : w.todo.broughtUp = []) (hh : w.todo.handed = []) (hs : w.todo.stage = false)
    (hg : w.todo.gate = false) (ho : w.todo.offer = false) (hf : w.todo.freed = false) : w.settle = w := by
  unfold Work.settle Work.giveFirst Work.checkGrants Work.giveRetirements Work.offerRouting Work.settleStaging
    Work.settleGate Work.offersGrants
  simp [hb, hh, hs, hg, ho, hf, Work.sortBy]

/-- R12: of the account, handing a page over changes the retention status alone. -/
theorem handOver_acct (s : State) (p : PageId) : (s.handOver p).acct = (s.markQueued p).acct := by
  have he (s : State) : (s.enqueue p).acct = s.acct := by
    unfold State.enqueue
    split <;> rfl
  have hs (s : State) : s.startHead.acct = s.acct := by
    unfold State.startHead
    split <;> rfl
  unfold State.handOver
  dsimp only
  split
  · exact he _
  · split
    · exact (hs _).trans (he _)
    · exact he _

/-- R12: of the account, handing pages over changes retention statuses alone, and those of the pages' records. -/
theorem foldl_handOver_acct (l : List PageId) (s : State) :
    { (l.foldl State.handOver s).acct with records := s.acct.records } = s.acct
      ∧ ∀ q, PageId.record q ∉ l → (l.foldl State.handOver s).acct.record q = s.acct.record q := by
  induction l generalizing s with
  | nil => exact ⟨rfl, fun _ _ => rfl⟩
  | cons p l ih =>
    have h1 : { (s.markQueued p).acct with records := s.acct.records } = s.acct := by
      unfold State.markQueued
      split
      · rfl
      · rfl
    have h2 (q : Nat) (hq : p ≠ .record q) : (s.markQueued p).acct.record q = s.acct.record q := by
      unfold State.markQueued
      split
      · rename_i n
        show Table.lookup (Table.modify s.acct.records n _) q = _
        rw [Table.lookup_modify, if_neg (fun e => hq (by rw [e]))]
        rfl
      · rfl
    have g := ih (s.handOver p)
    rw [handOver_acct] at g
    rw [List.foldl_cons]
    refine ⟨?_, fun q hq => ?_⟩
    · have := g.1
      generalize (List.foldl State.handOver (s.handOver p) l).acct = b at this
      generalize (s.markQueued p).acct = a at this h1
      cases a
      cases b
      cases hs : s.acct
      simp_all
    · rw [g.2 q (fun h => hq (List.mem_cons_of_mem _ h)), h2 q (fun e => hq (e ▸ List.mem_cons_self))]

/-- What an event's end leaves of an account where nothing is to be settled but pages: retention statuses alone. -/
theorem commit_idle (s : State) (w : Work) (h : w.settle = w) :
    { (s.commit w).acct with records := w.acct.records } = w.acct
      ∧ ∀ q, PageId.record q ∉ w.todo.pages → (s.commit w).acct.record q = w.acct.record q := by
  unfold State.commit
  dsimp only
  rw [h]
  exact foldl_handOver_acct w.todo.pages { s with acct := w.acct }

/-- An event that brings no claim up, offers no room and frees none leaves the claims, and of the records the retention statuses
of those handed over (R12). -/
theorem commit_books (s : State) (w : Work) (hb : w.todo.broughtUp = []) (ho : w.todo.offer = false)
    (hf : w.todo.freed = false) :
    (s.commit w).acct.claims = w.acct.claims
      ∧ ∀ q, PageId.record q ∉ w.todo.pages → (s.commit w).acct.record q = w.acct.record q := by
  have h := SameBooks.settle w hb ho hf
  have g := foldl_handOver_acct w.settle.todo.pages { s with acct := w.settle.acct }
  rw [(Settles.settle w).pages] at g
  unfold State.commit
  dsimp only
  rw [(Settles.settle w).pages]
  refine ⟨?_, fun q hq => ?_⟩
  · have e := congrArg Account.claims g.1
    exact Eq.trans e h.2
  · rw [g.2 q hq]
    exact congrArg (fun t => Table.lookup t q) h.1

/-- An event that hands no page over leaves the Retention Store. -/
theorem commit_pageless (s : State) (w : Work) (hp : w.todo.pages = []) :
    (s.commit w).store = s.store ∧ (s.commit w).acct = w.settle.acct := by
  unfold State.commit
  dsimp only
  rw [(Settles.settle w).pages, hp]
  exact ⟨rfl, rfl⟩

/-! ### Taking a request (R180) -/

/-- R180: a request that comes to its own rule is answered as that rule judges. -/
theorem takeRequest_runs {s : State} {p : Port} {m : Byte} {c : Code} (h : Runs s p m c) (j : State → Judged) :
    s.takeRequest p m c j = State.answer p m c.byte (j s) := by
  unfold State.takeRequest
  rw [h.1]
  simp [h.2.1, h.2.2.1, h.2.2.2]

theorem io_onIo (s : State) (p q : Port) (f : PortIo → PortIo) :
    (s.onIo p f).io q = if q = p then f (s.io p) else s.io q := by
  unfold State.onIo State.io
  by_cases h : q = p
  · subst h
    rw [if_pos rfl]
    exact PortMap.get_modify_self _ _ _
  · rw [if_neg h]
    exact PortMap.get_modify_ne _ _ h

/-- R180, R181: DONE, with the effect applied, over a state whose links are still those of the taking. -/
theorem answer_done (s t : State) (p : Port) (m : Byte) (c : Code) (r : Reply) (hl : t.links = s.links)
    (hp : t.pending = s.pending) (hw : t.power = s.power) :
    Done s (State.answer p m c.byte (.done t r false)) p m c r
      ∧ (State.answer p m c.byte (.done t r false)).acct = t.acct
      ∧ (State.answer p m c.byte (.done t r false)).store = t.store
      ∧ (State.answer p m c.byte (.done t r false)).freeIndex = t.freeIndex := by
  have hio (q : Port) : t.io q = s.io q := by
    unfold State.io
    rw [hl]
  refine ⟨⟨?_, fun q hq => ?_, ?_, ?_, hp, hw⟩, rfl, rfl, rfl⟩
  · unfold State.answer State.respond State.applyEffect
    dsimp only
    simp only [Bool.false_eq_true, if_false, io_onIo, if_true, hio]
    rfl
  · unfold State.answer State.respond State.applyEffect
    dsimp only
    simp only [Bool.false_eq_true, if_false, io_onIo, if_neg hq, hio]
  · exact (congrArg Links.station hl : t.links.station = s.links.station)
  · exact (congrArg Links.addressed hl : t.links.addressed = s.links.addressed)

/-- A request DONE by an event's work: the answer and the end of the event. -/
theorem finish_done {s : State} {p : Port} {m : Byte} {c : Code} (h : Runs s p m c) (j : State → Judged) (w : Work)
    (reply : State → Reply) (hj : j s = finish s w reply) :
    Done s (s.takeRequest p m c j) p m c (reply (s.commit w))
      ∧ Ends s w.acct w.todo.pages (s.takeRequest p m c j)
      ∧ (s.takeRequest p m c j).acct = (s.commit w).acct ∧ (s.takeRequest p m c j).store = (s.commit w).store := by
  rw [takeRequest_runs h, hj]
  unfold finish
  dsimp only
  have a := answer_done s (s.commit w) p m c (reply (s.commit w)) (commit_links s w) (commit_pending s w)
    (commit_power s w)
  have e := commit_ends s w
  refine ⟨a.1, ⟨?_, ?_, fun q hq => ?_, ?_, a.1.2.2.2.2.1, a.1.2.2.2.2.2⟩, a.2.1, a.2.2.1⟩
  · rw [a.2.1]
    exact e.account
  · rw [a.2.2.1]
    exact e.array
  · unfold Awaits
    rw [a.2.2.1]
    exact e.pages q hq
  · rw [a.2.2.2]
    exact e.freeIndex

/-- A request DONE that changes nothing but its answer. -/
theorem unchanged_done {s : State} {p : Port} {m : Byte} {c : Code} (h : Runs s p m c) (j : State → Judged) (r : Reply)
    (hj : j s = unchanged s r) : Done s (s.takeRequest p m c j) p m c r ∧ OnlyAnswered s (s.takeRequest p m c j) := by
  rw [takeRequest_runs h, hj]
  exact answer_done s s p m c r rfl rfl rfl

end Sys2Proof.Laws
end

