-- ==== Sys2Proof/Laws/Requests.lean ====
section
/-! SUPPORT. Every request's meaning is the taking of a request, under its code, with its own rule (R180). -/

namespace Sys2Proof.Laws

open Sys2Proof.Machine

theorem exec_query (s : State) (p : Port) (m : Byte) (id : Ident) :
    exec (.query p m id) s = .next (s.takeRequest p m .query (reqQuery p id)) := rfl

theorem exec_claim (s : State) (p : Port) (m : Byte) (tag : Nat) (ids : List Ident) :
    exec (.claim p m tag ids) s = .next (s.takeRequest p m .claim (reqClaim p tag ids)) := rfl

theorem exec_cancel (s : State) (p : Port) (m : Byte) (tag : Nat) :
    exec (.cancel p m tag) s = .next (s.takeRequest p m .cancel (reqCancel p tag)) := rfl

theorem exec_taken (s : State) (p : Port) (m : Byte) (id : Ident) :
    exec (.taken p m id) s = .next (s.takeRequest p m .taken (reqTaken p id)) := rfl

theorem exec_release (s : State) (p : Port) (m : Byte) (id : Ident) :
    exec (.release p m id) s = .next (s.takeRequest p m .release (reqRelease p id)) := rfl

theorem exec_put (s : State) (p : Port) (m : Byte) (id : Ident) :
    exec (.put p m id) s = .next (s.takeRequest p m .put (reqPut p id)) := rfl

theorem exec_exposed (s : State) (p : Port) (m : Byte) (id : Ident) (n : Nat) :
    exec (.exposed p m id n) s = .next (s.takeRequest p m .exposed (reqExposed p id n)) := rfl

theorem exec_toolStatus (s : State) (p : Port) (m : Byte) :
    exec (.toolStatus p m) s = .next (s.takeRequest p m .toolStatus (reqToolStatus p)) := rfl

theorem exec_register (s : State) (p : Port) (m : Byte) (id : Ident) (classCode : Nat) (expLimit ageLimit home : Option Nat)  :
    exec (.register p m id classCode expLimit ageLimit home) s = .next (s.takeRequest p m .register (reqRegister id classCode expLimit ageLimit home)) := rfl

theorem exec_retire (s : State) (p : Port) (m : Byte) (id : Ident) :
    exec (.retire p m id) s = .next (s.takeRequest p m .retire (reqRetire id)) := rfl

theorem exec_holdTry (s : State) (p : Port) (m : Byte) (id : Ident) :
    exec (.holdTry p m id) s = .next (s.takeRequest p m .hold (reqHoldTry id)) := rfl

theorem exec_holdWait (s : State) (p : Port) (m : Byte) (id : Ident) :
    exec (.holdWait p m id) s = .next (s.takeRequest p m .hold (reqHoldWait id)) := rfl

theorem exec_unhold (s : State) (p : Port) (m : Byte) (id : Ident) :
    exec (.unhold p m id) s = .next (s.takeRequest p m .unhold (reqUnhold id)) := rfl

theorem exec_rewrite (s : State) (p : Port) (m : Byte) (id : Ident) (classCode : Nat) (expLimit ageLimit home expCount age : Option Nat) :
    exec (.rewrite p m id classCode expLimit ageLimit home expCount age) s = .next (s.takeRequest p m .rewrite (reqRewrite id classCode expLimit ageLimit home expCount age)) := rfl

theorem exec_amend (s : State) (p : Port) (m : Byte) (id : Ident) (classCode home expLimit ageLimit : FieldChange) (namesCounts : Bool) :
    exec (.amend p m id classCode home expLimit ageLimit namesCounts) s = .next (s.takeRequest p m .amend (reqAmend id classCode home expLimit ageLimit namesCounts)) := rfl

theorem exec_readRecord (s : State) (p : Port) (m : Byte) (which : RecordRef) :
    exec (.readRecord p m which) s = .next (s.takeRequest p m .readRecord (reqReadRecord which)) := rfl

theorem exec_find (s : State) (p : Port) (m : Byte) (start stateFilter : Nat) (classFilter : Option Nat) :
    exec (.find p m start stateFilter classFilter) s = .next (s.takeRequest p m .find (reqFind start stateFilter classFilter)) := rfl

theorem exec_promote (s : State) (p : Port) (m : Byte) (tool tag : Nat) :
    exec (.promote p m tool tag) s = .next (s.takeRequest p m .promote (reqPromote tool tag)) := rfl

theorem exec_inspect (s : State) (p : Port) (m : Byte) (id : Ident) :
    exec (.inspect p m id) s = .next (s.takeRequest p m .inspect (reqInspect id)) := rfl

theorem exec_relocate (s : State) (p : Port) (m : Byte) (id : Ident) (dest : Option Nat) :
    exec (.relocate p m id dest) s = .next (s.takeRequest p m .relocate (reqRelocate id dest)) := rfl

theorem exec_audit (s : State) (p : Port) (m : Byte) (first count : Nat) :
    exec (.audit p m first count) s = .next (s.takeRequest p m .audit (reqAudit first count)) := rfl

theorem exec_resolve (s : State) (p : Port) (m : Byte) (id : Ident) (place : Nat) :
    exec (.resolve p m id place) s = .next (s.takeRequest p m .resolve (reqResolve id place)) := rfl

theorem exec_expunge (s : State) (p : Port) (m : Byte) (id : Ident) :
    exec (.expunge p m id) s = .next (s.takeRequest p m .expunge (reqExpunge id)) := rfl

theorem exec_clearExchange (s : State) (p : Port) (m : Byte) (position : Nat) :
    exec (.clearExchange p m position) s = .next (s.takeRequest p m .clearExchange (reqClearExchange position)) := rfl

theorem exec_closeRange (s : State) (p : Port) (m : Byte) (range first count complement : Nat) :
    exec (.closeRange p m range first count complement) s = .next (s.takeRequest p m .closeRange (reqCloseRange range first count complement)) := rfl

theorem exec_openRange (s : State) (p : Port) (m : Byte) (range : Nat) :
    exec (.openRange p m range) s = .next (s.takeRequest p m .openRange (reqOpenRange range)) := rfl

theorem exec_outtakeCleared (s : State) (p : Port) (m : Byte) :
    exec (.outtakeCleared p m) s = .next (s.takeRequest p m .outtakeCleared reqOuttakeCleared) := rfl

theorem exec_setTool (s : State) (p : Port) (m : Byte) (tool : Nat) (enabled capacity : Option Nat) :
    exec (.setTool p m tool enabled capacity) s = .next (s.takeRequest p m .setTool (reqSetTool tool enabled capacity)) := rfl

theorem exec_setTimers (s : State) (p : Port) (m : Byte) (take hold watchdog grace station : Option Nat) :
    exec (.setTimers p m take hold watchdog grace station) s = .next (s.takeRequest p m .setTimers (reqSetTimers take hold watchdog grace station)) := rfl

theorem exec_setDefaults (s : State) (p : Port) (m : Byte) (expLimit ageLimit : Option Nat) :
    exec (.setDefaults p m expLimit ageLimit) s = .next (s.takeRequest p m .setDefaults (reqSetDefaults expLimit ageLimit)) := rfl

theorem exec_setReserve (s : State) (p : Port) (m : Byte) (reserve : Nat) :
    exec (.setReserve p m reserve) s = .next (s.takeRequest p m .setReserve (reqSetReserve reserve)) := rfl

theorem exec_setSweep (s : State) (p : Port) (m : Byte) (period mode : Option Nat) :
    exec (.setSweep p m period mode) s = .next (s.takeRequest p m .setSweep (reqSetSweep period mode)) := rfl

theorem exec_startSweep (s : State) (p : Port) (m : Byte) :
    exec (.startSweep p m) s = .next (s.takeRequest p m .startSweep reqStartSweep) := rfl

theorem exec_stopSweep (s : State) (p : Port) (m : Byte) :
    exec (.stopSweep p m) s = .next (s.takeRequest p m .stopSweep reqStopSweep) := rfl

theorem exec_pause (s : State) (p : Port) (m : Byte) :
    exec (.pause p m) s = .next (s.takeRequest p m .pause reqPause) := rfl

theorem exec_resume (s : State) (p : Port) (m : Byte) :
    exec (.resume p m) s = .next (s.takeRequest p m .resume reqResume) := rfl

theorem exec_clear (s : State) (p : Port) (m : Byte) :
    exec (.clear p m) s = .next (s.takeRequest p m .clear reqClear) := rfl

theorem exec_sync (s : State) (p : Port) (m : Byte) :
    exec (.sync p m) s = .next (s.takeRequest p m .sync reqSync) := rfl

theorem exec_format (s : State) (p : Port) (m : Byte) :
    exec (.format p m) s = .next (s.takeRequest p m .format reqFormat) := rfl

theorem exec_identify (s : State) (p : Port) (m : Byte) :
    exec (.identify p m) s = .next (s.takeRequest p m .identify reqIdentify) := rfl

theorem exec_take (s : State) (p : Port) (m : Byte) :
    exec (.take p m) s = .next (s.takeRequest p m .take reqTake) := rfl

theorem exec_picked (s : State) (p : Port) (m : Byte) (move : Nat) (chars : List Byte) :
    exec (.picked p m move chars) s = .next (s.takeRequest p m .picked (reqPicked move chars)) := rfl

theorem exec_placed (s : State) (p : Port) (m : Byte) (move : Nat) :
    exec (.placed p m move) s = .next (s.takeRequest p m .placed (reqPlaced move)) := rfl

theorem exec_read (s : State) (p : Port) (m : Byte) (move : Nat) (found : ReadReport) :
    exec (.read p m move found) s = .next (s.takeRequest p m .read (reqRead move found)) := rfl

theorem exec_progress (s : State) (p : Port) (m : Byte) (move : Nat) :
    exec (.progress p m move) s = .next (s.takeRequest p m .progress (reqProgress move)) := rfl

theorem exec_faultPickFailed (s : State) (p : Port) (m : Byte) (move : Nat) :
    exec (.faultPickFailed p m move) s = .next (s.takeRequest p m .fault (reqPickFailed move)) := rfl

theorem exec_faultPlaceBlocked (s : State) (p : Port) (m : Byte) (move : Nat) :
    exec (.faultPlaceBlocked p m move) s = .next (s.takeRequest p m .fault (reqPlaceBlocked move)) := rfl

theorem exec_faultMechanical (s : State) (p : Port) (m : Byte) (move : Nat) :
    exec (.faultMechanical p m move) s = .next (s.takeRequest p m .fault (reqMechanical move)) := rfl

theorem exec_result (s : State) (p : Port) (m : Byte) (chars : List Byte) (verdict defect : Nat) :
    exec (.result p m chars verdict defect) s = .next (s.takeRequest p m .result (reqResult chars verdict defect)) := rfl

theorem exec_setFlags (s : State) (p : Port) (m : Byte) (pv nv : Nat) :
    exec (.setFlags p m pv nv) s = .next (s.takeRequest p m .setFlags (reqSetFlags p pv nv)) := rfl

theorem exec_fetchNotice (s : State) (p : Port) (m : Byte) :
    exec (.fetchNotice p m) s = .next (s.takeRequest p m .fetchNotice (reqFetchNotice p)) := rfl

theorem exec_clearSummary (s : State) (p : Port) (m : Byte) :
    exec (.clearSummary p m) s = .next (s.takeRequest p m .clearSummary (reqClearSummary p)) := rfl

theorem exec_setAttention (s : State) (p : Port) (m : Byte) (mode mask : Nat) :
    exec (.setAttention p m mode mask) s = .next (s.takeRequest p m .setAttention (reqSetAttention p mode mask)) := rfl

end Sys2Proof.Laws
end

