-- ==== Sys2Proof/Tests/Slice0.lean ====
section
/-! SUPPORT. The model's own small tests: ill-formed commands, single steps on a bench, and, for every obligation that
has hypotheses, a state and operands that meet them together. -/

namespace Sys2Proof.Tests

set_option Elab.async false

open Sys2Proof Sys2Proof.Machine

/-! ### The bench -/

/-- An identity of one repeated character. -/
def pod (c : Byte) : Ident := List.replicate 12 c

/-- A reported identity: the characters and their complements. -/
def tagRead (c : Byte) : List Byte := List.replicate 12 c ++ List.replicate 12 (~~~c)

/-- A settled record with nothing against its grant. -/
def podRecord (c : Byte) (custody : Custody) (place : Option Place) (holder : Option Scanner) : Record where
  ident := pod c
  classCode := 7
  custody := custody
  place := place
  lastKnown := none
  holder := holder
  home := none
  expCount := 10
  expLimit := none
  age := 20
  ageLimit := none
  due := false
  held := .none
  rejected := false
  retirePending := false
  returnRequested := false
  lastInspection := none
  claimQueue := []
  retention := .clean

/-- The records of the bench: 0 STORED in slot 0; 1 ISSUED to scanner 0; 2 UNVERIFIED; 3 AT_STATION with a claim
waiting; 4 PRESENTED at position 1; 5 OUTBOUND in slot 5; 6 ISSUED to scanner 2 with its return requested;
7 STORED in slot 7. -/
def benchRecords : Table Record :=
  [ (0, podRecord 0x41 .stored (some (.slot 0)) none),
    (1, podRecord 0x42 .issued (some (.tool 0)) (some 0)),
    (2, { podRecord 0x43 .unverified none none with lastKnown := some (.slot 9), claimQueue := [1] }),
    (3, { podRecord 0x44 .atStation (some .station) none with claimQueue := [1] }) ]
  ++ [ (4, podRecord 0x45 .presented (some (.exchange 1)) (some 1)),
    (5, podRecord 0x46 .outbound (some (.slot 5)) none),
    (6, { podRecord 0x47 .issued (some (.tool 2)) (some 2) with returnRequested := true }),
    (7, podRecord 0x48 .stored (some (.slot 7)) none) ]

/-- The claims of the bench: 0 GRANTED to scanner 1 for record 4; 1 WAITING for records 2 and 3. -/
def benchClaims : Table Claim :=
  [ (0, { tool := 1, tag := 9, priority := .normal, members := [{ record := some 4, taken := false }],
          state := .granted, order := 0, heldForRoom := false }),
    (1, { tool := 0, tag := 3, priority := .normal,
          members := [{ record := some 2, taken := false }, { record := some 3, taken := false }],
          state := .waiting, order := 1, heldForRoom := false }) ]

/-- A clear interlock and nothing else. -/
def clearUnit : ExchangeUnit := { ExchangeUnit.powerOn with interlock := false }

def benchUnits : Vector ExchangeUnit 8 :=
  #v[clearUnit, { clearUnit with position := .presented 4, timer := some { count := 5, limit := 300 } },
    { clearUnit with position := .opened, returnList := [6], timer := some { count := 5, limit := 300 } },
    { clearUnit with position := .unknown }, clearUnit, clearUnit, clearUnit, clearUnit]

/-- A part in service with all its links UP. -/
def bench : State :=
  { State.reset with
    power := .running
    acct :=
      { Account.powerOn with
        records := benchRecords
        claims := benchClaims
        nextOrder := 2
        sm := { base := .empty, slots := [(0, .occupied 0), (5, .occupied 5), (7, .occupied 7)], intake := .empty,
                outtakeOccupied := true, gateOpen := true }
        xu := benchUnits
        qu := { QualificationUnit.powerOn with
                station := .inspecting 3, watchdog := some { count := 0, limit := 1800 }
                sweepLoaded := some 60, sweepCounted := 120 }
        up := .all true
        everUp := .all true } }

/-- A move of the bench. -/
def benchMove (kind : MoveKind) (subject : Option Nat) (source : Place) (dest : Dest) (state : MoveState) : Move where
  number := 2
  kind := kind
  subject := subject
  source := source
  dest := dest
  ordered := dest
  priority := .normal
  cause := none
  state := state
  returning := false
  leftSlots := []

/-- The bench with a taken move. -/
def taking (mv : Move) : State :=
  { bench with
    acct := { bench.acct with
      du := { bench.acct.du with taken := some mv, watchdog := some { count := 3, limit := 90 } } } }

/-- The bench with another record table. -/
def withRecord (r : Nat) (x : Record) : State :=
  { bench with acct := { bench.acct with records := Table.put bench.acct.records r x } }

/-- The bench with a notice queued at a port, in overflow, its summary set. -/
def noticed (p : Port) : State :=
  { bench with
    acct := { bench.acct with
      notices := bench.acct.notices.modify p (fun ns =>
        { ns with queue := [.gate true 9 8], overflow := true, summary := { ClassSet.none with info := true } }) } }

/-- The bench with the flags of scanner 0's port set. -/
def flagged (flagP flagN : Bool) : State :=
  bench.onIo (.tool 0) (fun io => { io with flagP := flagP, flagN := flagN })

/-- The bench answering at a port, with or without a held frame. -/
def answering (p : Port) (frame : Option Frame) : State :=
  (bench.respond p 0x2E .done true 0 .nothing).onIo p (fun io => { io with heldFrame := frame })

/-- The bench with other Exchange Units. -/
def withUnit (k : Scanner) (x : ExchangeUnit) : State :=
  { bench with acct := { bench.acct with xu := bench.acct.xu.set k x } }

/-- The bench with another dispatch. -/
def dispatching (du : DispatchUnit) : State := { bench with acct := { bench.acct with du := du } }

/-- The bench with another Retention Store. -/
def storing (st : RetentionStore) : State := { bench with store := st }

/-- What the outcome of a command shows. -/
def shows (o : Host.Outcome State Fault Refusal) (f : State → Bool) : Bool :=
  match o with
  | .next t => f t
  | _ => false

/-- What the port is answering. -/
def outcomeAt (t : State) (p : Port) : Option Outcome := (t.io p).answering.map (·.outcome)

/-- The custody state of a record. -/
def custodyAt (t : State) (r : Nat) : Option Custody := (t.acct.record r).map (·.custody)

/-- `Runs`, computed. -/
def runs (s : State) (p : Port) (m : Byte) (c : Code) : Bool :=
  decide (s.power = .running) && modifierOk p m && permitted c p && guardTrue m (s.io p).flagP (s.io p).flagN

theorem runs_of {s : State} {p : Port} {m : Byte} {c : Code} (h : runs s p m c = true) : Runs s p m c := by
  simp only [runs, Bool.and_eq_true, decide_eq_true_eq] at h
  exact ⟨h.1.1.1, h.1.1.2, h.1.2, h.2⟩

/-- `Names`, computed. -/
def names (s : State) (id : Ident) (r : Nat) (x : Record) : Bool :=
  identOk id && decide (s.acct.findIdent id = some (r, x)) && decide (s.acct.record r = some x)

theorem names_of {s : State} {id : Ident} {r : Nat} {x : Record} (h : names s id r x = true) : Names s id r x := by
  simp only [names, Bool.and_eq_true, decide_eq_true_eq] at h
  exact ⟨h.1.1, h.1.2, h.2⟩

/-- The record a number names on the bench. -/
def onBench (r : Nat) : Record := ((bench.acct.record r).getD (podRecord 0 .stored none none))

/-! ### Ill-formed commands -/

theorem test_identity_of_eleven_characters : (Instr.query (.tool 0) 0 (List.replicate 11 0x41)).wellFormed = false := by
  decide +kernel
theorem test_tag_beyond_a_character : (Instr.cancel (.tool 0) 0 256).wellFormed = false := by decide +kernel
theorem test_count_beyond_two_characters : (Instr.exposed (.tool 0) 0 (pod 0x41) 65536).wellFormed = false := by
  decide +kernel
theorem test_limit_beyond_three_characters : (Instr.setDefaults .sup 0 (some 16777216) none).wellFormed = false := by
  decide +kernel
theorem test_claim_list_beyond_a_payload :
    (Instr.claim (.tool 0) 0 1 (List.replicate 21 (pod 0x41))).wellFormed = false := by decide +kernel
theorem test_claim_of_a_short_identity : (Instr.claim (.tool 0) 0 1 [[0x41]]).wellFormed = false := by decide +kernel
theorem test_report_without_complements : (Instr.picked .hdl 0 1 (pod 0x41)).wellFormed = false := by decide +kernel
theorem test_read_of_a_short_report : (Instr.read .hdl 0 1 (.ident (pod 0x41))).wellFormed = false := by decide +kernel
theorem test_record_number_beyond_two_characters : (Instr.readRecord .sup 0 (.byNumber 65536)).wellFormed = false := by
  decide +kernel
theorem test_record_named_by_a_short_identity : (Instr.readRecord .sup 0 (.byIdent [])).wellFormed = false := by
  decide +kernel
theorem test_amend_beyond_two_characters :
    (Instr.amend .sup 0 (pod 0x41) (.assign 65536) .keep .keep .keep false).wellFormed = false := by decide +kernel
theorem test_frame_beyond_its_length :
    (Instr.frameComplete .sup { code := 0, modifier := 0, payload := List.replicate 249 0 }).wellFormed = false := by
  decide +kernel
theorem test_catalogued_code_is_listed : (Instr.unlistedCodeRequest .sup 0 0x01).wellFormed = false := by decide +kernel
theorem test_well_formed_commands :
    ([ Instr.query (.tool 0) 0 (pod 0x41), .claim (.tool 0) 0 1 [pod 0x41], .picked .hdl 0 1 (tagRead 0x41),
       .unlistedCodeRequest .sup 0 0x50, .readRecord .sup 0 (.byNumber 831) ].all Instr.wellFormed) = true := by
  decide +kernel

/-! ### Single steps -/

theorem test_claim_of_a_stored_record_is_granted :
    shows (exec (.claim (.tool 0) 0 1 [pod 0x41]) bench) (fun t =>
      decide (outcomeAt t (.tool 0) = some .done ∧ custodyAt t 0 = some .allotted ∧ t.acct.moves.length = 1)) = true := by
  decide +kernel
theorem test_claim_of_a_claimed_record_is_refused :
    shows (exec (.claim (.tool 0) 0 4 [pod 0x44]) bench) (fun t =>
      decide (outcomeAt t (.tool 0) = some .duplicate ∧ t.acct = bench.acct)) = true := by decide +kernel
theorem test_put_tenders_and_queues_the_return :
    shows (exec (.put (.tool 2) 0 (pod 0x47)) bench) (fun t =>
      decide (custodyAt t 6 = some .tendered
        ∧ t.acct.moves.map (fun mv => mv.kind) = [.returnPod])) = true := by decide +kernel
theorem test_taken_issues_and_completes_the_claim :
    shows (exec (.taken (.tool 1) 0 (pod 0x45)) bench) (fun t =>
      decide (custodyAt t 4 = some .issued ∧ Table.lookup t.acct.claims 0 = none)) = true := by decide +kernel
theorem test_fail_verdict_ends_the_waiting_claim :
    shows (exec (.result .ins 0 (tagRead 0x44) 1 2) bench) (fun t =>
      decide (Table.lookup t.acct.claims 1 = none ∧ t.acct.qu.station = .finished (some 3)
        ∧ t.acct.moves.map (fun mv => mv.kind) = [.fromStation])) = true := by decide +kernel
theorem test_idle_tick_counts :
    shows (step bench) (fun t => decide (t.acct.qu.sweepCounted = 121
      ∧ (t.acct.xu[(1 : Scanner)]).timer = some { count := 6, limit := 300 })) = true := by decide +kernel
theorem test_frame_of_a_query_is_taken :
    shows (exec (.frameComplete (.tool 0) { code := 0x01, modifier := 0, payload := pod 0x41 }) bench) (fun t =>
      decide (outcomeAt t (.tool 0) = some .done)) = true := by decide +kernel
theorem test_reload_after_reset_begins_service :
    shows (exec .reloadEnd State.reset) (fun t =>
      decide (t.power = .running ∧ t.acct.sm.gateOpen = true
        ∧ (t.acct.notices.get .sup).queue = [.gate true 768 8, .reloadDone 0 0 0])) = true := by decide +kernel
theorem test_crc_of_the_check_string :
    crc16 ([0x31, 0x32, 0x33, 0x34, 0x35, 0x36, 0x37, 0x38, 0x39] : List Byte) = 0x29B1 := by decide +kernel

/-! ### The hypotheses of the obligations are met -/

theorem test_a_command_waits :
    ({ bench with pending := [.toolStatus (.tool 0) 0] } : State).pending = .toolStatus (.tool 0) 0 :: [] := rfl

/-- What a computed check of an optional value says of the value. -/
theorem whenSome {α : Type} {x : Option α} {f : α → Bool} (h : x.all f = true) (w : α) (hw : x = some w) : f w = true := by
  subst hw; simpa using h

/-- A timer stands short of its last second. -/
def short (w : Timer) : Bool := decide (w.count + 1 < w.limit)

theorem short_of {x : Option Timer} (h : x.all short = true) (w : Timer) (hw : x = some w) : w.count + 1 < w.limit := by
  simpa [short] using whenSome h w hw

theorem test_idle_in_service_and_out_of_it :
    bench.pending = [] ∧ bench.power = .running ∧ State.reset.pending = [] ∧ State.reset.power ≠ .running
      ∧ (∀ w, bench.acct.du.watchdog = some w → w.count + 1 < w.limit)
      ∧ (∀ (k : Scanner) w, (bench.acct.xu[k]).hold = some w → w.count + 1 < w.limit)
      ∧ (∀ (k : Scanner) w, (bench.acct.xu[k]).interlock = false → (bench.acct.xu[k]).timer = some w →
          w.count + 1 < w.limit)
      ∧ (∀ (k : Scanner) w, bench.acct.grace[k] = some w → w.count + 1 < w.limit)
      ∧ (∀ w, bench.acct.qu.watchdog = some w → w.count + 1 < w.limit)
      ∧ (∀ period, bench.acct.qu.sweepLoaded = some period → bench.acct.qu.sweepCounted + 1 < 60 * period) :=
  ⟨rfl, rfl, rfl, by decide, short_of (by decide +kernel),
    fun k => short_of (by revert k; decide +kernel), fun k w _ => short_of (by revert k; decide +kernel) w,
    fun k => short_of (by revert k; decide +kernel), short_of (by decide +kernel),
    fun n hn => of_decide_eq_true
      (whenSome (f := fun n => decide (bench.acct.qu.sweepCounted + 1 < 60 * n)) (by decide +kernel) n hn)⟩

theorem test_sound_state_with_a_step : bench.Sound ∧ step bench = .next bench.tick := by
  refine ⟨⟨?_, by unfold Account.Canonical; decide +kernel, by unfold RetentionStore.Canonical; decide +kernel, ?_,
    by unfold DistinctIdents; decide +kernel⟩, rfl⟩
  · intro p
    rcases p with k | _ | _ | _
    · revert k; decide +kernel
    all_goals decide +kernel
  · intro p
    rcases p with k | _ | _ | _
    · revert k; decide +kernel
    all_goals decide +kernel

theorem test_states_the_part_comes_to :
    Reachable State.reset ∧ Reachable { State.reset with pending := [.reloadEnd] }
      ∧ ∃ t, step { State.reset with pending := [.reloadEnd] } = .next t ∧ Reachable t := by
  have h : Reachable { State.reset with pending := [.reloadEnd] } := Reachable.commanded _ [.reloadEnd] .reset
  exact ⟨.reset, h, _, rfl, Reachable.stepped _ _ h rfl⟩

theorem test_reset_low_and_service :
    (exec .powerOnReset bench = .next (bench.interrupt.powerOnValues .resetLow)) ∧ bench.power = .running
      ∧ ({ bench with power := .resetLow } : State).power = .resetLow := ⟨rfl, rfl, rfl⟩

/-- An array with a record page. -/
def reloadStore : RetentionStore :=
  { State.reset.store with
    recordPages := [(3, .readable (.record 3 (retainedOf (podRecord 0x41 .stored (some (.slot 4)) none)))), (4, .unreadable)] }

theorem test_reload_of_pages_readable_and_not :
    ({ State.reset with store := reloadStore } : State).power = .reloading
      ∧ currentContent { reloadStore with spareMap := rebuildSpares reloadStore } .header
          = some (.header .format true)
      ∧ currentContent
          { reloadStore with headerPage := .unreadable, spareMap := rebuildSpares { reloadStore with headerPage := .unreadable } }
          .header = none
      ∧ (readRecords { reloadStore with spareMap := rebuildSpares reloadStore }).1.map (·.1) = [3]
      ∧ (readRecords { reloadStore with spareMap := rebuildSpares reloadStore }).2 = [4] := by decide +kernel

/-- An array whose records settle, contest a slot, or stood between places. -/
def mixedStore : RetentionStore :=
  { State.reset.store with
    recordPages :=
      [ (0, podRecord 0x41 .stored (some (.slot 4)) none), (1, podRecord 0x42 .stored (some (.slot 5)) none),
        (2, podRecord 0x43 .outbound (some (.slot 5)) none), (3, podRecord 0x44 .issued (some (.tool 7)) none),
        (4, podRecord 0x45 .inbound (some .intakePort) none), (5, podRecord 0x46 .presented (some (.exchange 1)) none) ].map
        (fun q => (q.1, Page.readable (.record q.1 (retainedOf q.2)))) }

/-- That array with the clean mark clear. -/
def unmarked (st : RetentionStore) : RetentionStore := { st with headerPage := .readable (.header .format false) }

theorem test_reload_trusted_and_not :
    shows (exec .reloadEnd { State.reset with store := mixedStore }) (fun t =>
      decide ([0, 1, 2, 3, 4, 5].map (custodyAt t) =
          [Custody.stored, .unverified, .unverified, .issued, .inbound, .unverified].map some
        ∧ t.acct.slot 4 = .occupied 0 ∧ t.acct.slot 5 = .unknown ∧ t.acct.sm.intake = .occupied 4
        ∧ (t.acct.xu[(1 : Scanner)]).position = .unknown ∧ t.store.mark = true)) = true
      ∧ shows (exec .reloadEnd { State.reset with store := unmarked mixedStore }) (fun t =>
        decide ((t.acct.records.all (fun q => decide (q.2.custody = .unverified))) = true ∧ t.acct.slot 4 = .unknown
          ∧ (t.acct.record 2).map (·.retirePending) = some true ∧ t.acct.sm.intake = .unknown)) = true := by
  decide +kernel

theorem test_requests_while_reloading :
    State.reset.power = .reloading
      ∧ requestOf (.query (.tool 7) 0x85 (pod 0x41)) = some (.tool 7, 0x85, Code.query.byte) := by decide +kernel

theorem test_bad_modifiers :
    bench.power = .running ∧ 7 < guardField 0x80 ∧ 5 < effectField 0x06 ∧ (0x01 : Byte) ≠ 0
      ∧ requestOf (.toolStatus (.tool 0) 0x80) = some (.tool 0, 0x80, Code.toolStatus.byte)
      ∧ requestOf (.take .hdl 0x01) = some (.hdl, 0x01, Code.take.byte)
      ∧ modifierOk (.tool 0) 0x75 = true := by decide +kernel

theorem test_request_on_another_port :
    bench.power = .running ∧ modifierOk .sup 0x31 = true ∧ permitted .take .sup = false
      ∧ requestOf (.take .sup 0x31) = some (.sup, 0x31, Code.take.byte) := by decide +kernel

theorem test_guards_true_and_false :
    (flagged true false).power = .running ∧ modifierOk (.tool 0) 0x70 = true
      ∧ requestOf (.toolStatus (.tool 0) 0x70) = some (.tool 0, 0x70, Code.toolStatus.byte)
      ∧ permitted .toolStatus (.tool 0) = true ∧ guardTrue 0x70 ((flagged true false).io (.tool 0)).flagP
          ((flagged true false).io (.tool 0)).flagN = false
      ∧ guardTrue 0x60 ((flagged true false).io (.tool 0)).flagP ((flagged true false).io (.tool 0)).flagN = true := by
  decide +kernel

theorem test_unlisted_code : bench.power = .running ∧ modifierOk .ins 0 = true ∧ codeOf 0x39 = none := by decide +kernel

theorem test_refused_requests :
    requestOf (.taken (.tool 3) 0 (pod 0x41)) = some (.tool 3, 0, Code.taken.byte)
      ∧ shows (exec (.taken (.tool 3) 0 (pod 0x41)) bench) (fun t => decide (outcomeAt t (.tool 3) = some .phaseError))
      ∧ shows (exec (.taken (.tool 0) 0 (pod 0x5A)) bench) (fun t => decide (outcomeAt t (.tool 0) = some .unknownId)) := by
  decide +kernel

theorem test_request_beside_another_port :
    requestOf (.identify .sup 0) = some (.sup, 0, Code.identify.byte) ∧ Port.tool 0 ≠ .sup
      ∧ shows (exec (.identify .sup 0) bench) (fun t => decide (outcomeAt t .sup = some .done)) = true := by decide +kernel

theorem test_flags_and_attention_can_be_set :
    Runs bench (.tool 0) 0 .setFlags ∧ Runs bench .ins 0 .setAttention
      ∧ (2 : Nat) ≤ 2 ∧ (2 : Nat) < 3 ∧ (7 : Nat) ≤ 7 :=
  ⟨runs_of (by decide +kernel), runs_of (by decide +kernel), by decide, by decide, by decide⟩

theorem test_notice_to_fetch_and_summary_to_clear :
    Runs (noticed .sup) .sup 0 .fetchNotice ∧ Runs (noticed .sup) .sup 0 .clearSummary
      ∧ guardTrue 0x10 (bench.io .sup).flagP (bench.io .sup).flagN = false :=
  ⟨runs_of (by decide +kernel), runs_of (by decide +kernel), by decide +kernel⟩

theorem test_inquiries :
    Runs bench (.tool 0) 0 .query ∧ Names bench (pod 0x41) 0 (onBench 0) ∧ Runs bench .sup 0 .readRecord
      ∧ bench.acct.record 0 = some (onBench 0) ∧ Runs bench .sup 0 .find ∧ Runs bench (.tool 2) 0 .toolStatus
      ∧ Runs bench .sup 0 .identify ∧ (831 : Nat) < 832 :=
  ⟨runs_of (by decide +kernel), names_of (by decide +kernel), runs_of (by decide +kernel), by decide +kernel,
    runs_of (by decide +kernel), runs_of (by decide +kernel), runs_of (by decide +kernel), by decide⟩

theorem test_claim_of_two_records :
    Runs bench (.tool 0) 0 .claim ∧ (254 : Nat) ≤ 254 ∧ (bench.acct.settings.tools[(0 : Scanner)]).enabled = true
      ∧ [pod 0x41, pod 0x48].Nodup
      ∧ List.Forall₂ (fun id (q : Nat × Record) => Names bench id q.1 q.2) [pod 0x41, pod 0x48]
          [(0, onBench 0), (7, onBench 7)]
      ∧ bench.acct.findClaim 0 254 = none
      ∧ (∀ q ∈ [(0, onBench 0), (7, onBench 7)], q.2.rejected = false ∧ q.2.retirePending = false ∧ q.2.custody ≠ .outbound
          ∧ claimedBy bench.acct 0 q.1 = false ∧ q.2.claimQueue.length < 8)
      ∧ bench.acct.openClaims 0 < 8 ∧ Table.lowestFree bench.acct.claims 64 = some 2
      ∧ bench.acct.libraryLoad 0 + 2 ≤ (bench.acct.settings.tools[(0 : Scanner)]).capacity
      ∧ (∀ q ∈ [(0, onBench 0), (7, onBench 7)], q.2.custody = .stored ∧ q.2.due = false ∧ q.2.held = .none
          ∧ q.2.claimQueue = [] ∧ bench.acct.named q.1 = false)
      ∧ bench.acct.reachable 0 = true ∧ 2 ≤ bench.acct.freeEntries :=
  ⟨runs_of (by decide +kernel), by decide, by decide +kernel, by decide +kernel,
    .cons (names_of (by decide +kernel)) (.cons (names_of (by decide +kernel)) .nil), by decide +kernel,
    by decide +kernel, by decide +kernel, by decide +kernel, by decide +kernel, by decide +kernel, by decide +kernel,
    by decide +kernel⟩

theorem test_claim_that_waits :
    Runs bench (.tool 5) 0 .claim ∧ (bench.acct.settings.tools[(5 : Scanner)]).enabled = true
      ∧ List.Forall₂ (fun id (q : Nat × Record) => Names bench id q.1 q.2) [pod 0x44] [(3, onBench 3)]
      ∧ bench.acct.findClaim 5 0 = none
      ∧ (∀ q ∈ [(3, onBench 3)], q.2.rejected = false ∧ q.2.retirePending = false ∧ q.2.custody ≠ .outbound
          ∧ claimedBy bench.acct 5 q.1 = false ∧ q.2.claimQueue.length < 8)
      ∧ bench.acct.openClaims 5 < 8 ∧ bench.acct.libraryLoad 5 + 1 ≤ (bench.acct.settings.tools[(5 : Scanner)]).capacity
      ∧ (∃ q ∈ [(3, onBench 3)], q.2.custody ≠ .stored) :=
  ⟨runs_of (by decide +kernel), by decide +kernel, .cons (names_of (by decide +kernel)) .nil, by decide +kernel,
    by decide +kernel, by decide +kernel, by decide +kernel, by decide +kernel⟩

/-- The FETCH of record 0 for claim 2 of scanner 4. -/
def claimFetch (state : MoveState) : Move :=
  { benchMove .fetch (some 0) (.slot 0) (.at (.exchange 4)) state with
    cause := some { tool := 4, tag := 6, order := 7, ended := none } }

/-- The claims of the bench with claim 2 GRANTED to scanner 4 for record 0. -/
def grantedClaims : Table Claim :=
  benchClaims ++
    [ (2, { tool := 4, tag := 6, priority := .normal, members := [{ record := some 0, taken := false }],
            state := .granted, order := 7, heldForRoom := false }) ]

/-- The bench with claim 2 granted, record 0 in a custody state and its FETCH queued or taken. -/
def granting (custody : Custody) (place : Place) (mv : Move) : State :=
  { withRecord 0 { podRecord 0x41 custody (some place) (some 4) with held := .holdPending } with
    acct := { (withRecord 0 { podRecord 0x41 custody (some place) (some 4) with held := .holdPending }).acct with
      claims := grantedClaims
      xu := bench.acct.xu.set 4 { clearUnit with position := if mv.state = .queued then .empty else .incoming }
      du := { bench.acct.du with
              queue := if mv.state = .queued then [mv] else []
              taken := if mv.state = .queued then none else some mv } } }

theorem test_granted_claims_to_end :
    [granting .allotted (.slot 0) (claimFetch .queued), granting .allotted (.slot 0) (claimFetch .active),
        granting .inTransit .handler (claimFetch (.holding .interlock))].all (fun s =>
      runs s (.tool 4) 0 .cancel && runs s .sup 0 .clear && runs s .sup 0 .promote
        && decide ((s.acct.findClaim 4 6).map (·.1) = some 2 ∧ (s.acct.findClaim 4 6).map (·.2) = Table.lookup s.acct.claims 2
          ∧ (s.acct.findClaim 4 6).map (·.2.state) = some .granted ∧ (s.acct.record 0).isSome = true
          ∧ s.acct.moves.length = 1 ∧ s.acct.moves.all (fun mv => decide (mv.subject = some 0)) = true
          ∧ (s.acct.du.staged.toList ++ s.acct.du.queue).all (fun mv => decide (mv.number ≠ 2 ∨ mv.state = .queued)) = true))
      = true := by decide +kernel

theorem test_member_back_and_held :
    shows (exec (.cancel (.tool 4) 0 6) (granting .allotted (.slot 0) (claimFetch .queued))) (fun t =>
      decide (custodyAt t 0 = some .stored ∧ (t.acct.record 0).map (·.held) = some .held ∧ t.acct.moves = [])) = true
      ∧ shows (exec (.cancel (.tool 4) 0 6) (granting .inTransit .handler (claimFetch (.holding .interlock)))) (fun t =>
        decide (t.acct.du.taken.map (fun mv => (mv.dest, mv.state)) = some (.at (.slot 1), .carrying)
          ∧ custodyAt t 0 = some .inTransit)) = true := by decide +kernel

theorem test_member_raised_by_promote :
    shows (exec (.promote .sup 0 4 6) (granting .allotted (.slot 0) (claimFetch .queued))) (fun t =>
      decide (t.acct.moves.map (·.priority) = [.hot])) = true := by decide +kernel

/-- The dispatch PAUSED with one free entry; record 0 heads the queues of claim 2, of two members and held for room,
and behind it of claim 3, of one. -/
def crowded : State :=
  { bench with
    acct := { bench.acct with
      records := Table.modify (Table.modify bench.acct.records 0 (fun x => { x with claimQueue := [2, 3] })) 7
        (fun x => { x with claimQueue := [2] })
      claims := bench.acct.claims ++
        [ (2, { tool := 4, tag := 6, priority := .normal,
                members := [{ record := some 0, taken := false }, { record := some 7, taken := false }],
                state := .waiting, order := 2, heldForRoom := true }),
          (3, { tool := 5, tag := 7, priority := .normal, members := [{ record := some 0, taken := false }],
                state := .waiting, order := 3, heldForRoom := false }) ]
      du := { bench.acct.du with
              state := .paused
              queue := (List.range (Config.dispatchRoom - 1)).map (fun n =>
                { benchMove .relocate (some 1) (.slot 1) (.at (.slot 2)) .queued with number := n }) } } }

theorem test_new_head_leaves_room :
    shows (exec (.promote .sup 0 5 7) crowded) (fun t =>
      decide ((Table.lookup t.acct.claims 3).map (·.state) = some .granted ∧ custodyAt t 0 = some .allotted
        ∧ (t.acct.record 0).map (·.claimQueue) = some [2]
        ∧ (Table.lookup t.acct.claims 2).map (fun x => (x.state, x.heldForRoom)) = some (.waiting, false))) = true := by
  decide +kernel

/-- The crowded dispatch with record 0 HELD, which stops the claim held for room, and a move staged or not. -/
def crowdedHeld (staged : Option Move) : State :=
  { crowded with
    acct := { crowded.acct with
      records := Table.modify crowded.acct.records 0 (fun x => { x with held := .held })
      du := { crowded.acct.du with staged := staged } } }

theorem test_freed_entries_alone_reach_the_claims_held_for_room :
    shows (exec (.put (.tool 2) 0 (pod 0x47)) (crowdedHeld none)) (fun t =>
      decide (custodyAt t 6 = some .tendered ∧ (Table.lookup t.acct.claims 2).map (·.heldForRoom) = some true)) = true
      ∧ shows (exec (.take .hdl 0)
            (crowdedHeld (some { benchMove .verify (some 5) (.slot 5) .absent .staged with number := 40 }))) (fun t =>
        decide (t.acct.du.taken.isSome = true
          ∧ (Table.lookup t.acct.claims 2).map (·.heldForRoom) = some false)) = true := by
  decide +kernel

/-- The crowded dispatch with record 0 HELD, record 5 STORED, and a VERIFY of its slot as the last of 31 moves. -/
def crowdedVerify : State :=
  { crowdedHeld none with
    acct := { (crowdedHeld none).acct with
      records := Table.modify (crowdedHeld none).acct.records 5 (fun x => { x with custody := .stored })
      du := { crowded.acct.du with
              queue := crowded.acct.du.queue.drop 1
                ++ [{ benchMove .verify (some 5) (.slot 5) .absent .queued with number := 40 }] } } }

theorem test_retire_takes_the_entry_of_the_move_it_replaces :
    shows (exec (.retire .sup 0 (pod 0x46)) crowdedVerify) (fun t =>
      decide (custodyAt t 5 = some .outbound ∧ t.acct.du.queue.length = crowdedVerify.acct.du.queue.length
        ∧ (Table.lookup t.acct.claims 2).map (·.heldForRoom) = some true)) = true := by decide +kernel

theorem test_claim_already_hot :
    (({ bench with acct := { bench.acct with
          claims := Table.modify bench.acct.claims 1 (fun x => { x with priority := .hot }) } } : State).acct.findClaim 0 3).map
        (·.2.priority) = some .hot := by decide +kernel

theorem test_claim_to_cancel_and_promote :
    Runs bench (.tool 0) 0 .cancel ∧ Runs bench .sup 0 .promote
      ∧ ∃ x, bench.acct.findClaim 0 3 = some (1, x) ∧ Table.lookup bench.acct.claims 1 = some x :=
  ⟨runs_of (by decide +kernel), runs_of (by decide +kernel), _, by decide +kernel, rfl⟩

theorem test_pod_to_take :
    Runs bench (.tool 1) 0 .taken ∧ Names bench (pod 0x45) 4 (onBench 4) ∧ lateTaken bench.acct 1 4 = false
      ∧ (bench.acct.xu[(1 : Scanner)]).position = .presented 4 ∧ (bench.acct.grantedFor 4).map (·.1) = some 0
      ∧ ((withUnit 1 { clearUnit with position := .recalled 4 }).acct.xu[(1 : Scanner)]).position = .recalled 4
      ∧ lateTaken (withUnit 1 { clearUnit with position := .recalled 4 }).acct 1 4 = false :=
  ⟨runs_of (by decide +kernel), names_of (by decide +kernel), by decide +kernel, by decide +kernel, by decide +kernel,
    by decide +kernel, by decide +kernel⟩

theorem test_pod_to_release_and_put :
    Runs bench (.tool 0) 0 .release ∧ Names bench (pod 0x42) 1 (onBench 1) ∧ (onBench 1).custody = .issued
      ∧ (onBench 1).holder = some 0 ∧ Runs bench (.tool 2) 0 .put ∧ Names bench (pod 0x47) 6 (onBench 6)
      ∧ (bench.acct.xu[(2 : Scanner)]).position = .opened ∧ (onBench 6).holder = some 2
      ∧ 6 ∈ (bench.acct.xu[(2 : Scanner)]).returnList :=
  ⟨runs_of (by decide +kernel), names_of (by decide +kernel), by decide +kernel, by decide +kernel,
    runs_of (by decide +kernel), names_of (by decide +kernel), by decide +kernel, by decide +kernel, by decide +kernel⟩

theorem test_exposures_to_count :
    Runs bench (.tool 0) 0 .exposed ∧ Names bench (pod 0x42) 1 (onBench 1) ∧ (1 : Nat) ≤ 65535 :=
  ⟨runs_of (by decide +kernel), names_of (by decide +kernel), by decide⟩

theorem test_pod_to_register :
    Runs bench .sup 0 .register ∧ identOk (pod 0x5A) = true ∧ bench.acct.findIdent (pod 0x5A) = none
      ∧ bench.acct.sm.gateOpen = true ∧ bench.acct.sm.intake = .empty
      ∧ Table.lowestFree bench.acct.records 832 = some 8 ∧ bench.acct.freeEntries ≠ 0
      ∧ (∀ v, some 16777215 = some v → 1 ≤ v ∧ v ≤ 16777215) ∧ ∀ v, some 767 = some v → v < 768 :=
  ⟨runs_of (by decide +kernel), by decide +kernel, by decide +kernel, by decide +kernel, by decide +kernel,
    by decide +kernel, by decide +kernel, by simp, by simp⟩

theorem test_pods_to_retire :
    Runs bench .sup 0 .retire ∧ Names bench (pod 0x46) 5 (onBench 5) ∧ (onBench 5).custody = .outbound
      ∧ QueueWaiting bench.acct (onBench 5)
      ∧ Names bench (pod 0x41) 0 (onBench 0) ∧ (onBench 0).custody = .stored ∧ (onBench 0).retirePending = false
      ∧ bench.acct.moveOf 0 = none ∧ bench.acct.freeEntries ≠ 0 ∧ QueueWaiting bench.acct (onBench 0)
      ∧ Names bench (pod 0x44) 3 (onBench 3) ∧ (onBench 3).custody = .atStation ∧ QueueWaiting bench.acct (onBench 3) := by
  refine ⟨runs_of (by decide +kernel), names_of (by decide +kernel), by decide +kernel, ?_, names_of (by decide +kernel),
    by decide +kernel, by decide +kernel, by decide +kernel, by decide +kernel, ?_, names_of (by decide +kernel),
    by decide +kernel, ?_⟩
  all_goals intro c hc y hy
  · simp [onBench, bench, benchRecords, Account.record, Table.lookup, podRecord] at hc
  · simp [onBench, bench, benchRecords, Account.record, Table.lookup, podRecord] at hc
  · have : c = 1 := by simpa [onBench, bench, benchRecords, Account.record, Table.lookup, podRecord] using hc
    subst this
    simp [bench, benchClaims, Table.lookup] at hy
    rw [← hy]

theorem test_records_to_hold_and_change :
    Runs bench .sup 0 .hold ∧ Runs bench .sup 0 .unhold ∧ Runs bench .sup 0 .rewrite ∧ Runs bench .sup 0 .amend
      ∧ Names bench (pod 0x41) 0 (onBench 0)
      ∧ rewriteOk 65535 (some 16777215) (some 1) (some 767) (some 16777215) (some 0) = true
      ∧ amendOk (.assign 65535) (.assign 767) .absent (.assign 16777215) false = true :=
  ⟨runs_of (by decide +kernel), runs_of (by decide +kernel), runs_of (by decide +kernel), runs_of (by decide +kernel),
    names_of (by decide +kernel), by decide +kernel, by decide +kernel⟩

theorem test_record_to_inspect :
    Runs bench .sup 0 .inspect ∧ Names bench (pod 0x41) 0 (onBench 0) ∧ (onBench 0).custody ≠ .unverified
      ∧ (onBench 0).rejected = false ∧ bench.acct.freeEntries ≠ 0 ∧ stationBound bench.acct 0 = false
      ∧ Names bench (pod 0x44) 3 (onBench 3) ∧ stationBound bench.acct 3 = true :=
  ⟨runs_of (by decide +kernel), names_of (by decide +kernel), by decide +kernel, by decide +kernel, by decide +kernel,
    by decide +kernel, names_of (by decide +kernel), by decide +kernel⟩

theorem test_slots_to_relocate_and_audit :
    Runs bench .sup 0 .relocate ∧ Names bench (pod 0x41) 0 (onBench 0) ∧ (onBench 0).place = some (.slot 0)
      ∧ bench.acct.named 0 = false ∧ Runs bench .sup 0 .audit ∧ passedOver bench.acct 767 = false
      ∧ passedOver (dispatching { bench.acct.du with queue :=
          [benchMove .verify none (.slot 767) .absent .queued] }).acct 767 = true
      ∧ (∀ n, some 767 = some n → n < 768 ∧ n ≠ 0) ∧ bench.acct.freeEntries ≠ 0
      ∧ (∀ i j r, bench.acct.slot i = .occupied r → bench.acct.slot j = .occupied r → i = j) := by
  refine ⟨runs_of (by decide +kernel), names_of (by decide +kernel), by decide +kernel, by decide +kernel,
    runs_of (by decide +kernel), by decide +kernel, by decide +kernel, by simp, by decide +kernel, ?_⟩
  have only : ∀ i r, bench.acct.slot i = .occupied r → i = r := by
    intro i r h
    simp only [Account.slot, bench, Table.getD, Table.lookup] at h
    split_ifs at h <;> simp_all
  exact fun i j r hi hj => (only i r hi).trans (only j r hj).symm

theorem test_audit_of_several_slots :
    shows (exec (.audit .sup 0 0 8) bench) (fun t =>
      decide ((t.io .sup).answering.map (·.payload) =
          some (.audit none 0 { empty := 5, occupied := 3, expected := 0, unknown := 0, foreign := 0 })
        ∧ t.acct.moves.map (·.subject) = [some 0, none, none, none, none, some 5, none, some 7])) = true := by
  decide +kernel

theorem test_doubts_to_settle :
    Runs bench .sup 0 .resolve ∧ Names bench (pod 0x43) 2 (onBench 2) ∧ (onBench 2).custody = .unverified
      ∧ bench.acct.slot 767 = .empty ∧ (bench.acct.xu[(0 : Scanner)]).position = .empty
      ∧ (bench.acct.xu[(3 : Scanner)]).position = .unknown ∧ Runs bench .sup 0 .clearExchange
      ∧ Runs bench .sup 0 .expunge ∧ QueueWaiting bench.acct (onBench 2) := by
  refine ⟨runs_of (by decide +kernel), names_of (by decide +kernel), by decide +kernel, by decide +kernel,
    by decide +kernel, by decide +kernel, runs_of (by decide +kernel), runs_of (by decide +kernel), ?_⟩
  intro c hc y hy
  have : c = 1 := by simpa [onBench, bench, benchRecords, Account.record, Table.lookup, podRecord] using hc
  subst this
  simp [bench, benchClaims, Table.lookup] at hy
  rw [← hy]

theorem test_verdict_to_give :
    Runs bench .ins 0 .result ∧ reportedIdent (tagRead 0x44) = some (pod 0x44) ∧ Names bench (pod 0x44) 3 (onBench 3)
      ∧ bench.acct.qu.station = .inspecting 3 ∧ (15 : Nat) ≤ 15 :=
  ⟨runs_of (by decide +kernel), by decide +kernel, names_of (by decide +kernel), by decide +kernel, by decide⟩

theorem test_settings_to_replace :
    Runs bench .sup 0 .setTool ∧ bench.acct.Canonical ∧ Runs bench .sup 0 .setTimers ∧ Runs bench .sup 0 .setReserve
      ∧ Runs bench .sup 0 .setDefaults ∧ Runs bench .sup 0 .startSweep ∧ Runs bench .sup 0 .stopSweep
      ∧ Runs bench .sup 0 .setSweep ∧ bench.acct.settings.sweepRunning = true
      ∧ (∀ v, some 1 = some v → v ≤ 1) ∧ (∀ v, some 12 = some v → 1 ≤ v ∧ v ≤ 12)
      ∧ (∀ v, some 3600 = some v → 10 ≤ v ∧ v ≤ 3600) ∧ (∀ v, some 65535 = some v → 1 ≤ v ∧ v ≤ 65535)
      ∧ (∃ v, some 0 = some v ∧ (v < 1 ∨ 16777215 < v)) :=
  ⟨runs_of (by decide +kernel), by unfold Account.Canonical; decide +kernel, runs_of (by decide +kernel), runs_of (by decide +kernel),
    runs_of (by decide +kernel), runs_of (by decide +kernel), runs_of (by decide +kernel), runs_of (by decide +kernel),
    by decide +kernel, by simp, by simp, by simp, by simp, 0, rfl, .inl (by decide)⟩

theorem test_sweep_stopped_and_range_in_force :
    ({ bench.acct.settings with sweepRunning := false } : Settings).sweepRunning = false
      ∧ Runs bench .sup 0 .closeRange ∧ Runs bench .sup 0 .openRange ∧ Runs bench .sup 0 .outtakeCleared
      ∧ 767 < 768 ∧ 767 + 1 ≤ 768 ∧ (bench.acct.settings.ranges[(3 : Fin 4)]).inForce = false
      ∧ bench.acct.sm.outtakeOccupied = true :=
  ⟨rfl, runs_of (by decide +kernel), runs_of (by decide +kernel), runs_of (by decide +kernel), by decide, by decide,
    by decide +kernel, by decide +kernel⟩

theorem test_dispatch_to_pause_and_resume :
    Runs bench .sup 0 .pause ∧ Runs bench .sup 0 .resume ∧ bench.acct.du.state = .running
      ∧ Runs (dispatching { bench.acct.du with state := .faulted }) .sup 0 .pause
      ∧ Runs (dispatching { bench.acct.du with state := .paused }) .sup 0 .resume
      ∧ Runs bench .sup 0 .clear ∧ bench.acct.Canonical :=
  ⟨runs_of (by decide +kernel), runs_of (by decide +kernel), rfl, runs_of (by decide +kernel),
    runs_of (by decide +kernel), runs_of (by decide +kernel), by unfold Account.Canonical; decide +kernel⟩

/-- The bench with no record. -/
def emptied : State := { bench with acct := { bench.acct with records := [], claims := [] } }

theorem test_stores_to_sync_and_format :
    Runs bench .sup 0 .sync ∧ bench.store.drained = true ∧ bench.store.mark = true ∧ bench.store.owed = []
      ∧ ({ bench.store with queue := [.header] } : RetentionStore).drained = false
      ∧ Runs emptied .sup 0 .format ∧ emptied.acct.records = [] ∧ emptied.store.format = none
      ∧ emptied.store.inFlight = none :=
  ⟨runs_of (by decide +kernel), rfl, rfl, rfl, rfl, runs_of (by decide +kernel), rfl, rfl, rfl⟩

theorem test_staged_move_to_take :
    Runs (dispatching { bench.acct.du with staged := some (benchMove .verify none (.slot 9) .absent .staged) }) .hdl 0 .take
      ∧ bench.acct.du.taken = none := ⟨runs_of (by decide +kernel), rfl⟩

/-- A FETCH of record 0 for scanner 4, its claim open or ended. -/
def fetchMove (ended : Option (EndCause × Nat)) : Move :=
  { benchMove .fetch (some 0) (.slot 0) (.at (.exchange 4)) .active with
    cause := some { tool := 4, tag := 1, order := 0, ended := ended } }

theorem test_move_to_pick :
    (taking (fetchMove none)).acct.Canonical ∧ Runs (taking (fetchMove none)) .hdl 0 .picked
      ∧ Reports (taking (fetchMove none)) 2 (fetchMove none) ∧ fetchEnded (fetchMove none) = false
      ∧ fetchEnded (fetchMove (some (.cancelled, 1))) = true
      ∧ reportedIdent (tagRead 0x41) = some (pod 0x41) ∧ reportedIdent (tagRead 0x42) = some (pod 0x42)
      ∧ (taking (fetchMove none)).acct.record 0 = some (onBench 0) ∧ (onBench 0).ident = pod 0x41 :=
  ⟨by unfold Account.Canonical; decide +kernel, runs_of (by decide +kernel), ⟨by decide, rfl, rfl⟩, by decide +kernel,
    by decide +kernel, by decide +kernel, by decide +kernel, by decide +kernel, by decide +kernel⟩

/-- A unit with its interlock asserted. -/
def assertedUnit (p : Position) (l : List Nat) : ExchangeUnit :=
  { ExchangeUnit.powerOn with position := p, returnList := l, hold := some { count := 1, limit := 60 } }

/-- A FETCH waiting at an asserted interlock of scanner 4. -/
def waiting : State :=
  { taking { fetchMove none with state := .holding .interlock } with
    acct := { (taking { fetchMove none with state := .holding .interlock }).acct with
      xu := bench.acct.xu.set 4 (assertedUnit .incoming []) } }

/-- A pick of record 0 under way. -/
def picking (kind : MoveKind) (source : Place) (d : Dest) : Move := benchMove kind (some 0) source d .active

theorem test_sources_to_pick_from :
    [picking .relocate (.slot 767) .choose, picking .intake .intakePort .choose, picking .returnPod (.exchange 7) .choose,
        picking .recover (.exchange 0) .choose, picking .fromStation .station .choose,
        picking .retire (.slot 0) (.at .outtakePort)].all (fun mv =>
      runs (taking mv) .hdl 0 .picked && decide ((taking mv).acct.du.taken = some mv ∧ mv.number = 2 ∧ mv.kind ≠ .verify
        ∧ mv.state = .active ∧ mv.subject = some 0)) = true
      ∧ (∀ q u, (withRecord 3 (podRecord 0x44 .stored (some (.slot 8)) none)).acct.record q = some u →
          u.place = some .station → q = 0) := by
  refine ⟨by decide +kernel, fun q u h hu => ?_⟩
  have none_there : (withRecord 3 (podRecord 0x44 .stored (some (.slot 8)) none)).acct.records.all (fun e =>
      decide (e.2.place ≠ some .station)) = true := by decide +kernel
  have := List.all_eq_true.mp none_there (q, u) (Table.mem_of_lookup h)
  simp [hu] at this

theorem test_fetch_waits_at_the_interlock :
    runs { waiting with acct := { waiting.acct with du := { waiting.acct.du with taken := some (fetchMove none) } } }
        .hdl 0 .picked = true
      ∧ (waiting.acct.xu[(4 : Scanner)]).interlock = true := by decide +kernel

theorem test_mismatch_of_two_known_records :
    shows (exec (.picked .hdl 0 2 (tagRead 0x48)) (taking (fetchMove none))) (fun t =>
      decide (t.acct.slot 7 = .unknown ∧ (t.acct.record 7).map (·.lastKnown) = some (some (.slot 0))
        ∧ ((t.acct.notices.get .sup).queue.map (noticeKind .sup)).take 2 = [0x20, 0x20])) = true := by decide +kernel

theorem test_redirect_of_an_ended_fetch :
    shows (exec (.picked .hdl 0 2 (tagRead 0x41)) (taking (fetchMove (some (.cancelled, 1))))) (fun t =>
      decide ((t.io .hdl).answering.map (·.payload) = some (.answer (.redirect 1))
        ∧ t.acct.slot 1 = .expected 2 ∧ custodyAt t 0 = some .inTransit)) = true := by decide +kernel

theorem test_mismatch_goes_back :
    shows (exec (.picked .hdl 0 2 (tagRead 0x48)) (taking (fetchMove none))) (fun t =>
      decide ((t.io .hdl).answering.map (·.payload) = some (.answer (.returnToSource (.slot 0)))
        ∧ custodyAt t 0 = some .unverified ∧ custodyAt t 7 = some .unverified ∧ t.acct.slot 0 = .unknown)) = true := by
  decide +kernel

/-- A pod carried to a destination. -/
def carried (kind : MoveKind) (d : Place) : Move := benchMove kind (some 0) (.slot 0) (.at d) .carrying

theorem test_moves_to_place :
    Runs (taking (carried .relocate (.slot 9))) .hdl 0 .placed
      ∧ Reports (taking (carried .relocate (.slot 9))) 2 (carried .relocate (.slot 9))
      ∧ (taking (carried .relocate (.slot 9))).acct.record 0 = some (onBench 0)
      ∧ [Place.slot 767, .exchange 7, .station, .outtakePort].all (fun d =>
          decide ((taking (carried .fetch d)).acct.du.taken = some (carried .fetch d))) = true :=
  ⟨runs_of (by decide +kernel), ⟨by decide, rfl, rfl⟩, by decide +kernel, by decide +kernel⟩

/-- A pod on its way back to its source, or from there to a slot chosen for it. -/
def goingBack (d : Place) (source : Place) : Move :=
  { benchMove .relocate none source (.at d) .carrying with returning := true }

/-- The bench with a returning move, slot 9 EXPECTED for it, slot 0 UNKNOWN and the station FINISHED with no record. -/
def returning (mv : Move) : State :=
  { taking mv with
    acct := { (taking mv).acct with
      sm := { (taking mv).acct.sm with slots := Table.put (Table.put bench.acct.sm.slots 9 (.expected 2)) 0 .unknown }
      qu := { (taking mv).acct.qu with station := .finished none } } }

theorem test_pods_going_back :
    [goingBack (.slot 9) (.slot 0), goingBack (.slot 9) .station, goingBack (.slot 0) (.slot 0)].all (fun mv =>
      runs (returning mv) .hdl 0 .placed && runs (returning mv) .hdl 0 .fault
        && decide ((returning mv).acct.du.taken = some mv ∧ mv.state = .carrying ∧ mv.returning = true)) = true
      ∧ (returning (goingBack (.slot 9) (.slot 0))).acct.slot 9 = .expected 2
      ∧ (returning (goingBack (.slot 0) (.slot 0))).acct.slot 0 = .unknown
      ∧ (returning (goingBack (.slot 9) .station)).acct.qu.station = .finished none := by decide +kernel

/-- A VERIFY of slot 0. -/
def verifying : Move := benchMove .verify (some 0) (.slot 0) .absent .active

theorem test_slot_to_read :
    Runs (taking verifying) .hdl 0 .read ∧ Reports (taking verifying) 2 verifying
      ∧ (reportedIdent (tagRead 0x41)).isSome = true ∧ (taking verifying).acct.slot 0 = .occupied 0
      ∧ (taking verifying).acct.findIdent (pod 0x5A) = none ∧ Names (taking verifying) (pod 0x41) 0 (onBench 0) :=
  ⟨runs_of (by decide +kernel), ⟨by decide, rfl, rfl⟩, by decide +kernel, by decide +kernel, by decide +kernel,
    names_of (by decide +kernel)⟩

theorem test_reads_of_other_records :
    Names (taking verifying) (pod 0x43) 2 (onBench 2) ∧ (onBench 2).custody = .unverified ∧ (onBench 2).holder = none
      ∧ Names (taking verifying) (pod 0x48) 7 (onBench 7) ∧ (onBench 7).custody ≠ .unverified
      ∧ (taking verifying).acct.slot 0 ≠ .occupied 2 ∧ (taking verifying).acct.slot 0 ≠ .occupied 7
      ∧ (reportedIdent (tagRead 0x43)).isSome = true ∧ (reportedIdent (tagRead 0x48)).isSome = true :=
  ⟨names_of (by decide +kernel), by decide +kernel, by decide +kernel, names_of (by decide +kernel), by decide +kernel,
    by decide +kernel, by decide +kernel, by decide +kernel, by decide +kernel⟩

theorem test_read_settles_and_read_doubts :
    shows (exec (.read .hdl 0 2 (.ident (tagRead 0x43))) (taking verifying)) (fun t =>
      decide (t.acct.slot 0 = .occupied 2 ∧ custodyAt t 2 = some .stored ∧ custodyAt t 0 = some .unverified)) = true
      ∧ shows (exec (.read .hdl 0 2 (.ident (tagRead 0x48))) (taking verifying)) (fun t =>
        decide (t.acct.slot 0 = .unknown ∧ t.acct.slot 7 = .unknown ∧ custodyAt t 7 = some .unverified)) = true := by
  decide +kernel

/-- A FETCH of record 4 carried to position 1 for its open claim. -/
def blocked (d : Place) : Move := { benchMove .fetch (some 4) (.slot 3) (.at d) .carrying with cause := none }

theorem test_places_found_blocked :
    [blocked (.exchange 1), blocked .station, blocked .outtakePort, blocked (.slot 767)].all (fun mv =>
      runs (taking mv) .hdl 0 .fault && decide ((taking mv).acct.du.taken = some mv ∧ mv.returning = false
        ∧ (taking mv).acct.du.queue = [] ∧ (taking mv).acct.du.staged = none)) = true
      ∧ ((taking (blocked (.exchange 1))).acct.grantedFor 4).map (·.1) = some 0
      ∧ ({ onBench 4 with custody := .inTransit } : Record).custody = .inTransit := by decide +kernel

theorem test_blocked_delivery_fails_the_claim :
    shows (exec (.faultPlaceBlocked .hdl 0 2) (taking (blocked (.exchange 1)))) (fun t =>
      decide (Table.lookup t.acct.claims 0 = none ∧ (t.acct.xu[(1 : Scanner)]).position = .unknown
        ∧ (t.acct.notices.get (.tool 1)).queue = [.claimEnded 9 .failed 0]
        ∧ (t.io .hdl).answering.map (·.payload) = some (.answer (.redirect 1)))) = true := by decide +kernel

/-- The bench with a RELOCATE carried to slot 9, EXPECTED for it, and a VERIFY of that slot behind it. -/
def verifyBehind : State :=
  let s := taking (carried .relocate (.slot 9))
  { s with
    acct := { s.acct with
      sm := { s.acct.sm with slots := Table.put s.acct.sm.slots 9 (.expected 2) }
      du := { s.acct.du with queue := [{ benchMove .verify none (.slot 9) .absent .queued with number := 3 }] } } }

theorem test_block_stages_the_verify_of_the_slot :
    shows (exec (.faultPlaceBlocked .hdl 0 2) verifyBehind) (fun t =>
      decide (t.acct.slot 9 = .unknown ∧ t.acct.du.staged.map (·.number) = some 3)) = true := by decide +kernel

theorem test_progress_and_faults_to_report :
    Runs (taking (carried .relocate (.slot 9))) .hdl 0 .progress
      ∧ Runs (taking (carried .relocate (.slot 9))) .hdl 0 .fault ∧ Runs (taking (fetchMove none)) .hdl 0 .fault
      ∧ Reports (taking (fetchMove none)) 2 (fetchMove none)
      ∧ Reports (taking { fetchMove none with state := .holding .interlock }) 2
          { fetchMove none with state := .holding .interlock } :=
  ⟨runs_of (by decide +kernel), runs_of (by decide +kernel), runs_of (by decide +kernel), ⟨by decide, rfl, rfl⟩,
    ⟨by decide, rfl, rfl⟩⟩

theorem test_address_on_a_link_that_is_down :
    let s : State := { bench with acct := { bench.acct with up := { bench.acct.up with sup := false } } }
    s.power = .running ∧ s.acct.up.sup = false
      ∧ shows (exec (.addressCharacter 0) s) (fun t => decide (t = s)) = true := by decide +kernel

theorem test_frames_to_receive :
    bench.power = .running ∧ bench.acct.up.get (.tool 0) = true
      ∧ ({ bench with links := { bench.links with addressed := true } } : State).links.addressed = true
      ∧ (bench.io (.tool 0)).answering = none
      ∧ ((answering (.tool 0) none).io (.tool 0)).answering ≠ none
      ∧ ((answering (.tool 0) (some { code := 1, modifier := 0, payload := [] })).io (.tool 0)).heldFrame ≠ none
      ∧ (bench.io (.tool 0)).reader = .hunting
      ∧ ((bench.setReader (.tool 0) (.collecting [2, 0x41, 0])).io (.tool 0)).reader = .collecting [2, 0x41, 0]
      ∧ frameOf [2, 0x41, 0, 0, 0] = none := by decide +kernel

theorem test_frame_with_its_crc :
    frameOf ([2, 0x41, 0] ++ crcChars [2, 0x41, 0]) = some { code := 0x41, modifier := 0, payload := [] } := by
  decide +kernel

theorem test_frame_of_the_largest_payload :
    (List.replicate 248 (0x41 : Byte)).length ≤ 248 ∧ frameOf ([2, 0x41, 0] ++ [0, 0]) = none
      ∧ ((bench.setReader (.tool 0) (.collecting [2, 0x41, 0, 0])).io (.tool 0)).reader = .collecting (2 :: [0x41, 0, 0]) := by
  decide +kernel

theorem test_links_to_break :
    (bench.power = .running ∨ bench.power = .reloading) ∧ bench.acct.up.sup = true
      ∧ bench.acct.up.get (.tool 7) = true
      ∧ ({ bench with acct := { bench.acct with up := bench.acct.up.set .ins false } } : State).acct.up.get .ins = false := by
  decide +kernel

theorem test_interlocks_to_clear :
    (waiting.acct.xu[(4 : Scanner)]).interlock = true
      ∧ ((withUnit 0 (assertedUnit .empty [1])).acct.xu[(0 : Scanner)]).position = .empty
      ∧ waiting.acct.du.taken = some { fetchMove none with state := .holding .interlock }
      ∧ (waiting.acct.xu[(4 : Scanner)]).hold = some { count := 1, limit := 60 } ∧ waiting.power = .running := by
  decide +kernel

theorem test_access_after_the_interlock :
    shows (exec (.interlockClearing 0) (withUnit 0 (assertedUnit .empty [1]))) (fun t =>
      decide ((t.acct.notices.get (.tool 0)).queue = [.access (pod 0x42) 1]
        ∧ (t.acct.xu[(0 : Scanner)]).position = .opened)) = true
      ∧ (bench.acct.xu[(0 : Scanner)]).interlock = false ∧ (bench.acct.notices.get (.tool 0)).mode ≠ .pulse := by
  decide +kernel

theorem test_pulse_to_end :
    ((onNotices bench .hdl (fun ns => { ns with mode := .pulse, pulsing := true })).acct.notices.get .hdl).asserted = true
      ∧ (bench.acct.notices.get .hdl).asserted = false := by decide +kernel

theorem test_proceed_after_the_interlock :
    shows (exec (.interlockClearing 4) waiting) (fun t =>
      decide ((t.acct.notices.get .hdl).queue = [.proceed 2] ∧ (t.acct.xu[(4 : Scanner)]).hold = none)) = true := by
  decide +kernel

theorem test_timers_to_expire :
    bench.power = .running ∧ bench.acct.Canonical
      ∧ (taking (fetchMove none)).acct.du.watchdog = some { count := 3, limit := 90 }
      ∧ (bench.acct.xu[(1 : Scanner)]).position = .presented 4 ∧ (bench.acct.xu[(1 : Scanner)]).timer ≠ none
      ∧ (bench.acct.xu[(1 : Scanner)]).interlock = false ∧ (bench.acct.grantedFor 4).map (·.1) = some 0
      ∧ custodyAt bench 4 = some .presented ∧ (bench.acct.xu[(2 : Scanner)]).position = .opened
      ∧ (bench.acct.xu[(2 : Scanner)]).timer ≠ none
      ∧ ({ bench with acct := { bench.acct with grace := bench.acct.grace.set 0 (some { count := 1, limit := 120 }) } }
          : State).acct.grace[(0 : Scanner)] ≠ none
      ∧ bench.acct.qu.station = .inspecting 3 ∧ bench.acct.qu.watchdog ≠ none
      ∧ bench.acct.settings.sweepRunning = true ∧ bench.acct.qu.sweepLoaded = some 60 := by
  unfold Account.Canonical; decide +kernel

theorem test_take_and_grace_expiries_tell :
    shows (exec (.takeTimerExpiry 1) bench) (fun t =>
      decide ((t.acct.notices.get (.tool 1)).queue = [.claimEnded 9 .untaken 0, .recalled (pod 0x45) 9 .untaken]
        ∧ t.acct.moves.map (·.kind) = [.recover])) = true
      ∧ shows (exec (.graceExpiry 0)
          { noticed (.tool 0) with
            acct := { (noticed (.tool 0)).acct with grace := bench.acct.grace.set 0 (some { count := 1, limit := 120 }) } })
        (fun t => decide ((t.acct.notices.get (.tool 0)).queue = [] ∧ (t.acct.notices.get (.tool 0)).overflow = false
          ∧ (t.acct.notices.get .sup).queue = [.link (.tool 0) .graceExpired])) = true := by decide +kernel

/-- The program of record 0's page. -/
def recordProgram (second : Bool) : Program :=
  { purpose := .page (.record 0), place := .own (.record 0),
    image := .record 0 (retainedOf (onBench 0)), secondTry := second }

/-- The bench with that program in flight and some spares in use. -/
def programming (second : Bool) (spares : Table SpareUse) : State :=
  storing { bench.store with inFlight := some (recordProgram second), spareMap := spares }

theorem test_programs_to_complete :
    (programming false []).power = .running ∧ (programming false []).store.inFlight = some (recordProgram false)
      ∧ (programming false []).store.format = none ∧ (recordProgram false).purpose = .page (.record 0)
      ∧ (programming true []).store.freeSpares = 0 :: (List.range 64).drop 1
      ∧ (programming true ((List.range 64).map (fun i => (i, .bad)))).store.freeSpares = [] := by decide +kernel

/-- A program of the header page. -/
def headerProgram (image : Content) : Program :=
  { purpose := .page .header, place := .own .header, image := image, secondTry := false }

/-- The bench programming a header, with pages queued. -/
def marking (mark : Bool) (queue : List PageId) (format : Option FormatStep) : State :=
  storing { bench.store with
    inFlight := some (headerProgram (.header .format mark)), queue := queue, format := format, syncRequest := true
    mark := false }

theorem test_headers_to_complete :
    [marking true [] none, marking true [.record 0] none, marking false [.record 0] (some .lastHeader),
        marking true [] (some .lastHeader), marking true [.record 0] (some .waiting)].all (fun s =>
      decide (s.power = .running ∧ s.store.inFlight.map (·.purpose) = some (.page .header) ∧ s.store.stage = none
        ∧ s.store.placeOf .header = .own .header ∧ s.store.owed = [])) = true := by decide +kernel

theorem test_mark_and_the_header_after_it :
    shows (exec (.programComplete true) (marking true [.record 0] none)) (fun t =>
      decide (t.store.mark = true ∧ t.store.queue = [.record 0]
        ∧ t.store.inFlight = some (headerProgram (.header bench.acct.settings false))
        ∧ (t.acct.notices.get .sup).queue = [.retention .clean])) = true
      ∧ shows (exec (.programComplete true) (marking false [] none)) (fun t =>
        decide (t.store.mark = false ∧ t.store.syncRequest = false
          ∧ t.store.inFlight = some (headerProgram (.header bench.acct.settings true)))) = true := by decide +kernel

theorem test_pass_goes_on :
    [(FormatStep.firstHeader, some (FormatStep.spare 0)), (.spare 63, some (.record 0)), (.record 831, some .lastHeader),
        (.waiting, some .firstHeader), (.spare 0, some (.spare 1)), (.record 0, some (.record 1)), (.lastHeader, none)].all
      (fun q => shows (exec (.programComplete true) (marking true [] (some q.1))) (fun t =>
        decide (t.store.format = q.2))) = true := by decide +kernel

theorem test_page_that_passes_is_clean :
    shows (exec (.programComplete true) (programming false [])) (fun t =>
      decide (t.store.pageAt (.own (.record 0)) = .readable (.record 0 (retainedOf (onBench 0)))
        ∧ t.store.inFlight = none)) = true := by decide +kernel

end Sys2Proof.Tests
end

/-! What HOLD TRY leaves (R18): the record of the page handed over, and a change of held as an event. -/

namespace Sys2Proof.Laws

open Sys2Proof.Machine

/-! ### An event's end, for the records handed over -/

/-- R12: handing a page over changes the retention status alone of a record, its own included. -/
theorem handOver_aside (s : State) (p : PageId) (q : Nat) :
    ((s.handOver p).acct.record q).map Record.aside = (s.acct.record q).map Record.aside := by
  rw [handOver_acct]
  cases p with
  | header => rfl
  | record n =>
    show (Table.lookup (Table.modify s.acct.records n _) q).map _ = (Table.lookup s.acct.records q).map _
    rw [Table.lookup_modify]
    split
    · rw [Option.map_map]
      rfl
    · rfl

theorem foldl_handOver_aside (l : List PageId) (s : State) (q : Nat) :
    ((l.foldl State.handOver s).acct.record q).map Record.aside = (s.acct.record q).map Record.aside := by
  induction l generalizing s with
  | nil => rfl
  | cons p l ih => exact (ih _).trans (handOver_aside s p q)

/-- An event with nothing to settle but pages leaves every record as its work has it, but for the retention status. -/
theorem commit_idle_aside (s : State) (w : Work) (h : w.settle = w) (q : Nat) :
    ((s.commit w).acct.record q).map Record.aside = (w.acct.record q).map Record.aside := by
  unfold State.commit
  dsimp only
  rw [h]
  exact foldl_handOver_aside w.todo.pages { s with acct := w.acct } q

/-- An event that has done nothing ends in the state it began in. -/
theorem finish_start (s : State) (reply : State → Reply) : finish s (.start s.acct) reply = unchanged s (reply s) := by
  have hc : s.commit (.start s.acct) = s := by
    unfold State.commit
    rw [settle_idle (.start s.acct) rfl rfl rfl rfl rfl rfl]
    rfl
  unfold finish
  dsimp only
  rw [hc]
  rfl

/-! ### A change of held (R18 to R20) -/

/-- R2: a request that names a record in use comes to its own rule. -/
theorem withIdent_names {s : State} {id : Ident} {r : Nat} {x : Record} (h : Names s id r x)
    (act : Nat → Record → Judged) : withIdent id s act = act r x := by
  obtain ⟨hid, hfind, -⟩ := h
  simp [withIdent, hid, hfind]

/-- R18, R133: the work of a record's becoming HELD: its field, its place on the routing list, and its page. -/
def heldWork (a : Account) (r : Nat) : Work where
  acct :=
    { a with
      records := Table.modify a.records r (fun x => { x with held := .held })
      qu := { a.qu with routing := a.qu.routing.filter (· ≠ r) } }
  todo := { pages := [.record r] }

theorem setHeld_same (w : Work) (r : Nat) (x : Record) : setHeld w r x x.held = w := if_pos rfl

theorem setHeld_held (a : Account) (r : Nat) (x : Record) (h : x.held ≠ .held) :
    setHeld (.start a) r x .held = heldWork a r := by
  unfold setHeld
  rw [if_neg h]
  rfl

theorem settle_heldWork (a : Account) (r : Nat) : (heldWork a r).settle = heldWork a r :=
  settle_idle _ rfl rfl rfl rfl rfl rfl

theorem heldWork_record_self {a : Account} {r : Nat} {x : Record} (h : a.record r = some x) :
    (heldWork a r).acct.record r = some { x with held := .held } := by
  show Table.lookup (Table.modify a.records r _) r = _
  rw [Table.lookup_modify, if_pos rfl, show Table.lookup a.records r = some x from h]
  rfl

theorem heldWork_record_ne (a : Account) {r q : Nat} (h : q ≠ r) : (heldWork a r).acct.record q = a.record q := by
  show Table.lookup (Table.modify a.records r _) q = _
  rw [Table.lookup_modify, if_neg h]
  rfl

theorem mem_heldWork_routing (a : Account) {r q : Nat} (h : q ≠ r) :
    q ∈ (heldWork a r).acct.qu.routing ↔ q ∈ a.qu.routing := by
  simp [heldWork, h]

/-- What the event of a record becoming HELD leaves (R12, R18). -/
theorem commit_heldWork {s : State} {a : Account} {r : Nat} {x : Record} (hx : s.acct.record r = some x)
    (ha : a = (s.commit (heldWork s.acct r)).acct) :
    (∃ y, a.record r = some y ∧ y.aside = { x with held := .held }.aside)
      ∧ (∀ q, q ≠ r → a.record q = s.acct.record q)
      ∧ (∀ q, q ≠ r → (q ∈ a.qu.routing ↔ q ∈ s.acct.qu.routing))
      ∧ { a with records := s.acct.records, qu := { a.qu with routing := s.acct.qu.routing } } = s.acct := by
  subst ha
  obtain ⟨hacct, hother⟩ := commit_idle s _ (settle_heldWork s.acct r)
  have hself := commit_idle_aside s _ (settle_heldWork s.acct r) r
  rw [heldWork_record_self hx] at hself
  refine ⟨Option.map_eq_some_iff.mp hself, fun q hq => ?_, fun q hq => ?_, ?_⟩
  · exact (hother q (by simpa [heldWork] using hq)).trans (heldWork_record_ne s.acct hq)
  · rw [← mem_heldWork_routing s.acct hq]
    exact iff_of_eq (congrArg (fun a => q ∈ a.qu.routing) hacct)
  · exact congrArg
      (fun a => { a with records := s.acct.records, qu := { a.qu with routing := s.acct.qu.routing } }) hacct

/-! ### HOLD TRY (R18) -/

/-- R18: of a STORED record that is not HELD, HOLD TRY makes it HELD. -/
theorem reqHoldTry_holds {s : State} {id : Ident} {r : Nat} {x : Record} (hn : Names s id r x)
    (hc : x.custody = .stored) (hh : x.held ≠ .held) :
    reqHoldTry id s =
      finish s (heldWork s.acct r) (fun _ => { test := true, count := x.claimQueue.length }) := by
  unfold reqHoldTry
  rw [withIdent_names hn, if_pos hc, setHeld_held _ _ _ hh]

/-- R18: of a record that is not STORED, or is HELD already, HOLD TRY changes nothing. -/
theorem reqHoldTry_unchanged {s : State} {id : Ident} {r : Nat} {x : Record} (hn : Names s id r x)
    (hu : x.custody ≠ .stored ∨ x.held = .held) :
    reqHoldTry id s = unchanged s { test := decide (x.custody = .stored), count := x.claimQueue.length } := by
  unfold reqHoldTry
  rw [withIdent_names hn]
  by_cases hc : x.custody = .stored
  · have hh : x.held = .held := hu.resolve_left (not_not_intro hc)
    have hw := setHeld_same (.start s.acct) r x
    rw [hh] at hw
    rw [if_pos hc, hw, finish_start, decide_eq_true hc]
  · rw [if_neg hc, decide_eq_false hc]

/-- Settles O31: HOLD TRY either makes a STORED record HELD, an event that settles nothing but the record's page, or
is answered over the state unchanged. -/
theorem holdTryHoldsAStoredRecord : Obligations.HoldTryHoldsAStoredRecord := by
  intro s p m id r x hr hn
  have ⟨_, _, hx⟩ := hn
  by_cases hu : x.custody ≠ .stored ∨ x.held = .held
  · obtain ⟨hdone, honly⟩ := unchanged_done hr _ _ (reqHoldTry_unchanged hn hu)
    have ⟨hacct, hstore, hfree⟩ := honly
    refine ⟨_, x, exec_holdTry s p m id, hdone, hacct ▸ hx, ?_, fun hc hh => ?_, fun _ => honly,
      fun q _ => by rw [hacct], fun q _ => by rw [hacct], by rw [hacct], hstore ▸ .refl _, hfree⟩
    · split
      · rename_i hc
        rw [← hu.resolve_left (not_not_intro hc)]
      · rfl
    · exact absurd hu (not_or_intro (not_not_intro hc) hh)
  · obtain ⟨hc, hh⟩ : x.custody = .stored ∧ x.held ≠ .held := by simpa using hu
    obtain ⟨hdone, hends, hacct, -⟩ := finish_done hr _ _ _ (reqHoldTry_holds hn hc hh)
    obtain ⟨⟨y, hy, haside⟩, hother, hrouting, hrest⟩ := commit_heldWork hx hacct
    refine ⟨_, y, exec_holdTry s p m id, ?_, hy, ?_, fun _ _ => hends.pages _ List.mem_cons_self, fun h => absurd h hu,
      hother, hrouting, hrest, hends.array, hends.freeIndex⟩
    · rw [decide_eq_true hc]
      exact hdone
    · rw [if_pos hc]
      exact haside

end Sys2Proof.Laws

/-! What PROGRESS leaves (R75): the reports of the handler on its taken move, and the move watchdog restarted. -/

namespace Sys2Proof.Laws

open Sys2Proof.Machine

/-! ### The handler's reports (R66) -/

/-- R66: a report that names the taken move and fits it comes to its own rule. -/
theorem withTaken_reports {s : State} {move : Nat} {mv : Move} (h : Reports s move mv) {fits : Move → Bool}
    (hf : fits mv = true) (act : Move → Judged) : withTaken move s fits act = act mv := by
  obtain ⟨hlt, htaken, hnumber⟩ := h
  unfold withTaken
  rw [if_neg (show ¬ Config.moveNumbers ≤ move from Nat.not_le.mpr hlt), htaken]
  simp [hnumber, hf]

/-- R66: a report DONE by an event's work, its test and count the next free values (log 28). The event's end is
`commit`'s, but for the free value spent. -/
theorem finishReport_done {s : State} {p : Port} {m : Byte} {c : Code} (h : Runs s p m c) (j : State → Judged) (w : Work)
    (payload : Payload) (hj : j s = finishReport s w payload) :
    Done s (s.takeRequest p m c j) p m c
        { test := Config.unstatedTest (s.commit w).freeIndex
          count := (Config.unstatedCount (s.commit w).freeIndex).toNat, payload := payload }
      ∧ (s.takeRequest p m c j).acct = (s.commit w).acct ∧ (s.takeRequest p m c j).store = (s.commit w).store := by
  rw [takeRequest_runs h, hj]
  obtain ⟨hdone, hacct, hstore, -⟩ :=
    answer_done s { s.commit w with freeIndex := (s.commit w).freeIndex + 1 } p m c _ (commit_links s w)
      (commit_pending s w) (commit_power s w)
  exact ⟨hdone, hacct, hstore⟩

/-- An event that leaves nothing to settle changes the account as its work has it, and not the Retention Store. -/
theorem commit_nothing_left (s : State) (w : Work) (h : w.todo = {}) :
    (s.commit w).acct = w.acct ∧ (s.commit w).store = s.store := by
  obtain ⟨a, todo⟩ := w
  obtain rfl : todo = {} := h
  have hsettle : Work.settle ⟨a, {}⟩ = ⟨a, {}⟩ := settle_idle _ rfl rfl rfl rfl rfl rfl
  obtain ⟨hstore, hacct⟩ := commit_pageless s ⟨a, {}⟩ rfl
  exact ⟨hacct.trans (congrArg Work.acct hsettle), hstore⟩

/-! ### PROGRESS (R75) -/

@[simp] theorem startWatchdog_todo (w : Work) : w.startWatchdog.todo = w.todo := rfl

/-- R77: of the account, the watchdog's start changes the watchdog alone. -/
theorem startWatchdog_acct (w : Work) :
    w.startWatchdog.acct =
      { w.acct with
        du := { w.acct.du with watchdog := some { count := 0, limit := w.acct.settings.watchdogLimit } } } := rfl

/-- R75: of an ACTIVE or CARRYING move, PROGRESS is the watchdog's start. -/
theorem reqProgress_restarts {s : State} {move : Nat} {mv : Move} (h : Reports s move mv)
    (hm : mv.state = .active ∨ mv.state = .carrying) :
    reqProgress move s = finishReport s (Work.start s.acct).startWatchdog .nothing := by
  unfold reqProgress
  rw [withTaken_reports h rfl]
  dsimp only
  rw [if_pos hm]

/-- R75: of a move that is neither ACTIVE nor CARRYING, PROGRESS does nothing. -/
theorem reqProgress_nothing {s : State} {move : Nat} {mv : Move} (h : Reports s move mv)
    (hm : ¬(mv.state = .active ∨ mv.state = .carrying)) :
    reqProgress move s = finishReport s (.start s.acct) .nothing := by
  unfold reqProgress
  rw [withTaken_reports h rfl]
  dsimp only
  rw [if_neg hm]

/-- Settles O51: by whether the taken move is ACTIVE or CARRYING; either way the event leaves nothing to settle. -/
theorem progressRestartsTheWatchdog : Obligations.ProgressRestartsTheWatchdog := by
  intro s m move mv hr hrep
  by_cases hm : mv.state = .active ∨ mv.state = .carrying
  · obtain ⟨hdone, hacct, hstore⟩ := finishReport_done hr _ _ _ (reqProgress_restarts hrep hm)
    obtain ⟨hcommit, hkept⟩ := commit_nothing_left s (Work.start s.acct).startWatchdog (startWatchdog_todo _)
    refine ⟨_, _, _, exec_progress s .hdl m move, hdone, fun _ => ?_, fun ⟨cause, hc⟩ => ?_, hstore.trans hkept⟩
    · exact (hacct.trans hcommit).trans (startWatchdog_acct _)
    · simp [hc] at hm
  · obtain ⟨hdone, hacct, hstore⟩ := finishReport_done hr _ _ _ (reqProgress_nothing hrep hm)
    obtain ⟨hcommit, hkept⟩ := commit_nothing_left s (.start s.acct) rfl
    exact ⟨_, _, _, exec_progress s .hdl m move, hdone, fun h => absurd h hm, fun _ => hacct.trans hcommit,
      hstore.trans hkept⟩

end Sys2Proof.Laws

/-! What SET_DEFAULTS leaves (R126): a refused request, and a replaced setting as an event. -/

namespace Sys2Proof.Laws

open Sys2Proof.Machine

/-! ### Refused requests (R180, R181) -/

/-- R180, R181: a request its own rule refuses is answered with the outcome, the effect applied with test false and
count 0, and changes nothing else. -/
theorem refusal_answered {s : State} {p : Port} {m : Byte} {c : Code} (h : Runs s p m c) (j : State → Judged)
    (o : Outcome) (hj : j s = refusal o s) :
    Answered s (s.takeRequest p m c j) p c.byte o (effectP m (s.io p).flagP false) (effectN m (s.io p).flagN 0)
        false 0 .nothing
      ∧ OnlyAnswered s (s.takeRequest p m c j) := by
  rw [takeRequest_runs h, hj]
  unfold refusal State.answer State.refuse State.respond State.applyEffect
  refine ⟨⟨?_, fun q hq => ?_, rfl, rfl, rfl, rfl⟩, rfl, rfl, rfl⟩
  · rw [io_onIo, if_pos rfl, io_onIo, if_pos rfl]
    rfl
  · rw [io_onIo, if_neg hq, io_onIo, if_neg hq]

/-! ### A change of settings -/

/-- R12: the settings page has no retention status, so handing it over alone leaves the account as the event's work
has it. -/
theorem commit_header_acct (s : State) (w : Work) (h : w.todo = { pages := [.header] }) :
    (s.commit w).acct = w.acct := by
  obtain ⟨a, todo⟩ := w
  obtain rfl : todo = { pages := [.header] } := h
  unfold State.commit
  rw [settle_idle ⟨a, { pages := [.header] }⟩ rfl rfl rfl rfl rfl rfl]
  exact handOver_acct { s with acct := a } .header

/-- A request DONE by replacing settings changes the settings alone, and hands their page over. -/
theorem finish_settings {s : State} {p : Port} {m : Byte} {c : Code} (h : Runs s p m c) (j : State → Judged)
    (f : Settings → Settings) (r : Reply)
    (hj : j s = finish s (((Work.start s.acct).onSettings f).page .header) (fun _ => r)) :
    Done s (s.takeRequest p m c j) p m c r
      ∧ (s.takeRequest p m c j).acct = { s.acct with settings := f s.acct.settings }
      ∧ Awaits (s.takeRequest p m c j) .header
      ∧ ArrayKept s.store (s.takeRequest p m c j).store ∧ (s.takeRequest p m c j).freeIndex = s.freeIndex := by
  obtain ⟨hdone, hends, hacct, -⟩ := finish_done h _ _ _ hj
  exact ⟨hdone, hacct.trans (commit_header_acct s _ rfl), hends.pages _ List.mem_cons_self, hends.array,
    hends.freeIndex⟩

/-! ### SET_DEFAULTS (R126) -/

/-- R4: a limit given is in range from 1 to 16,777,215. -/
theorem limitOptOk_iff (v : Option Nat) : limitOptOk v = true ↔ ∀ n, v = some n → 1 ≤ n ∧ n ≤ 16777215 := by
  simp only [limitOptOk, limitOk, Option.all_eq_true, Bool.and_eq_true, decide_eq_true_eq]
  rfl

/-- R126: the settings with the defaults given in place of the old. -/
def withDefaults (e g : Option Nat) (t : Settings) : Settings :=
  { t with
    defaultExpLimit := e.getD t.defaultExpLimit
    defaultAgeLimit := g.getD t.defaultAgeLimit }

/-- R126: a value out of range refuses the whole request. -/
theorem reqSetDefaults_malformed {e g : Option Nat} (h : ∃ v, (e = some v ∨ g = some v) ∧ (v < 1 ∨ 16777215 < v))
    (s : State) : reqSetDefaults e g s = refusal .malformed s := by
  have hbad : (limitOptOk e && limitOptOk g) = false := by
    rw [Bool.eq_false_iff, Ne, Bool.and_eq_true, limitOptOk_iff, limitOptOk_iff]
    rintro ⟨he, hg⟩
    obtain ⟨v, hv, hout⟩ := h
    have hin := hv.elim (he v) (hg v)
    omega
  unfold reqSetDefaults
  rw [hbad]
  rfl

/-- R126: fields in range, at least one of them given, replace the defaults. -/
theorem reqSetDefaults_replaces {e g : Option Nat} (h : ∀ v, e = some v ∨ g = some v → 1 ≤ v ∧ v ≤ 16777215)
    (hgiven : (e.isSome || g.isSome) = true) (s : State) :
    reqSetDefaults e g s =
      finish s (((Work.start s.acct).onSettings (withDefaults e g)).page .header)
        (fun _ => { test := true, count := followers s.acct }) := by
  have he : limitOptOk e = true := (limitOptOk_iff e).mpr fun v hv => h v (.inl hv)
  have hg : limitOptOk g = true := (limitOptOk_iff g).mpr fun v hv => h v (.inr hv)
  have hsome : (e.isNone && g.isNone) = false := by
    rw [← Option.not_isSome, ← Option.not_isSome, ← Bool.not_or, hgiven, Bool.not_true]
  unfold reqSetDefaults
  rw [he, hg, hsome]
  rfl

/-- R126: with neither field, SET_DEFAULTS changes nothing. -/
theorem reqSetDefaults_unchanged (s : State) :
    reqSetDefaults none none s = unchanged s { test := false, count := followers s.acct } := rfl

/-- R126: what an accepted SET_DEFAULTS leaves, by whether a field was given. -/
theorem setDefaults_accepted {s : State} {p : Port} {m : Byte} (hr : Runs s p m .setDefaults) {e g : Option Nat}
    (h : ∀ v, e = some v ∨ g = some v → 1 ≤ v ∧ v ≤ 16777215) :
    ∃ t, exec (.setDefaults p m e g) s = .next t
      ∧ Done s t p m .setDefaults { test := e.isSome || g.isSome, count := followers s.acct }
      ∧ t.acct = { s.acct with settings := withDefaults e g s.acct.settings }
      ∧ ((e.isSome || g.isSome) = true → Awaits t .header)
      ∧ ((e.isSome || g.isSome) = false → OnlyAnswered s t)
      ∧ ArrayKept s.store t.store ∧ t.freeIndex = s.freeIndex := by
  by_cases hgiven : (e.isSome || g.isSome) = true
  · obtain ⟨hdone, hacct, hpage, hkept⟩ :=
      finish_settings hr _ (withDefaults e g) _ (reqSetDefaults_replaces h hgiven s)
    exact ⟨_, exec_setDefaults s p m e g, hgiven ▸ hdone, hacct, fun _ => hpage,
      fun hnone => absurd hgiven (Bool.eq_false_iff.mp hnone), hkept⟩
  · obtain ⟨rfl, rfl⟩ : e = none ∧ g = none := by simpa using hgiven
    obtain ⟨hdone, honly⟩ := unchanged_done hr _ _ (reqSetDefaults_unchanged s)
    have ⟨hacct, hstore, hfree⟩ := honly
    exact ⟨_, exec_setDefaults s p m none none, hdone, hacct, fun hsome => absurd hsome hgiven, fun _ => honly,
      hstore ▸ .refl _, hfree⟩

/-- R5: a record with no exposure limit of its own follows the default. -/
theorem effExp_of_none {x : Record} (a : Account) (hx : x.expLimit = none) :
    a.effExp x = a.settings.defaultExpLimit := by
  rw [Account.effExp, hx, Option.getD_none]

/-- R5: a record with no age limit of its own follows the default. -/
theorem effAge_of_none {x : Record} (a : Account) (hx : x.ageLimit = none) :
    a.effAge x = a.settings.defaultAgeLimit := by
  rw [Account.effAge, hx, Option.getD_none]

/-- Settles O41: a value out of range is refused; accepted fields leave the account but for its settings, and the
effective limits follow from those. -/
theorem setDefaultsReplacesTheDefaults : Obligations.SetDefaultsReplacesTheDefaults := by
  refine ⟨rfl, rfl, fun s p m e g hr => ⟨fun hout => ?_, fun hin => ?_⟩⟩
  · exact ⟨_, exec_setDefaults s p m e g, refusal_answered hr _ _ (reqSetDefaults_malformed hout s)⟩
  · obtain ⟨t, hexec, hdone, hacct, hkept⟩ := setDefaults_accepted hr hin
    refine ⟨t, hexec, hdone, hacct, fun x hx => ?_, fun x hx => ?_, hkept⟩
    · rw [effExp_of_none _ hx, hacct]
      rfl
    · rw [effAge_of_none _ hx, hacct]
      rfl

end Sys2Proof.Laws

/-! What FETCH_NOTICE and CLEAR_SUMMARY leave (R190, R191): a request of one port's notice state, and one skipped. -/

namespace Sys2Proof.Laws

open Sys2Proof.Machine

/-! ### Requests of a port's notice state (R180, R182) -/

/-- R182: a request whose guard is false is answered SKIPPED, over the state as it was. -/
theorem takeRequest_skipped {s : State} {p : Port} {m : Byte} {c : Code} (hpower : s.power = .running)
    (hmodifier : modifierOk p m = true) (hpermitted : permitted c p = true)
    (hguard : guardTrue m (s.io p).flagP (s.io p).flagN = false) (j : State → Judged) :
    s.takeRequest p m c j = s.respond p c.byte .skipped false 0 .nothing := by
  unfold State.takeRequest
  rw [hpower]
  simp [hmodifier, hpermitted, hguard]

/-- A request DONE by a change of its port's notice state changes nothing else of the account. -/
theorem onNotices_done {s : State} {p : Port} {m : Byte} {c : Code} (h : Runs s p m c) (j : State → Judged)
    (f : NoticeState → NoticeState) (r : Reply) (hj : j s = .done (onNotices s p f) r false) :
    Done s (s.takeRequest p m c j) p m c r
      ∧ (s.takeRequest p m c j).acct.notices.get p = f (s.acct.notices.get p)
      ∧ (∀ q, q ≠ p → (s.takeRequest p m c j).acct.notices.get q = s.acct.notices.get q)
      ∧ (s.takeRequest p m c j).acct = { s.acct with notices := (s.takeRequest p m c j).acct.notices }
      ∧ (s.takeRequest p m c j).store = s.store ∧ (s.takeRequest p m c j).freeIndex = s.freeIndex := by
  rw [takeRequest_runs h, hj]
  obtain ⟨hdone, hacct, hstore, hfree⟩ := answer_done s (onNotices s p f) p m c r rfl rfl rfl
  have hnotices : (State.answer p m c.byte (.done (onNotices s p f) r false)).acct.notices = s.acct.notices.modify p f :=
    congrArg Account.notices hacct
  refine ⟨hdone, ?_, fun q hq => ?_, ?_, hstore, hfree⟩
  · rw [hnotices, PortMap.get_modify_self]
  · rw [hnotices, PortMap.get_modify_ne _ _ hq]
  · rw [hnotices, hacct]
    rfl

/-! ### FETCH_NOTICE (R190) -/

@[simp] theorem fetched_queue (ns : NoticeState) : ns.fetched.queue = ns.queue.tail := rfl
@[simp] theorem fetched_overflow (ns : NoticeState) : ns.fetched.overflow = false := rfl
@[simp] theorem fetched_summary (ns : NoticeState) : ns.fetched.summary = ns.summary := rfl
@[simp] theorem fetched_mode (ns : NoticeState) : ns.fetched.mode = ns.mode := rfl
@[simp] theorem fetched_mask (ns : NoticeState) : ns.fetched.mask = ns.mask := rfl

/-- R188, R190: a fetch leaves room in the queue. -/
theorem fetched_length {ns : NoticeState} (h : ns.queue.length ≤ Config.noticeRoom) : ns.fetched.queue.length ≤ 7 := by
  have h8 : ns.queue.length ≤ 8 := h
  rw [fetched_queue, List.length_tail]
  omega

/-- Settles O17: a FETCH_NOTICE that runs changes its port's notice state to the fetched one; a skipped one is answered
over the state as it was. -/
theorem fetchNoticeTakesTheOldestEntry : Obligations.FetchNoticeTakesTheOldestEntry := by
  rintro s p m _ rfl
  refine ⟨fun hr => ?_, fun hpower hmodifier hpermitted hguard => ?_⟩
  · obtain ⟨hdone, hport, hrest⟩ := onNotices_done hr (reqFetchNotice p) NoticeState.fetched _ rfl
    refine ⟨_, exec_fetchNotice s p m, hdone, ?_⟩
    rw [hport]
    exact ⟨fetched_queue _, fetched_overflow _, fetched_summary _, fetched_mode _, fetched_mask _,
      fun hbounded => fetched_length (hbounded p), hrest⟩
  · refine ⟨_, exec_fetchNotice s p m, ?_⟩
    rw [takeRequest_skipped hpower hmodifier hpermitted hguard, State.respond_acct]

/-! ### The summary (R191) -/

theorem has_add_self (s : ClassSet) (c : NoticeClass) : (s.add c).has c = true := by
  cases c <;> rfl

theorem has_add_ne (s : ClassSet) {c d : NoticeClass} (h : c ≠ d) : (s.add c).has d = s.has d := by
  cases c <;> cases d <;> trivial

/-- R191: a notice's class shows in the summary, whether it is entered or finds the queue full. -/
@[simp] theorem enter_summary (ns : NoticeState) (n : Notice) : (ns.enter n).summary = ns.summary.add n.cls := by
  unfold NoticeState.enter
  split <;> rfl

/-- R191: after a notice, a class is indicated that was before, or that is the notice's own. -/
theorem enter_summary_has (ns : NoticeState) (n : Notice) (c : NoticeClass) :
    (ns.enter n).summary.has c = (ns.summary.has c || decide (n.cls = c)) := by
  rw [enter_summary]
  by_cases hc : n.cls = c
  · rw [decide_eq_true hc, Bool.or_true, hc, has_add_self]
  · rw [decide_eq_false hc, Bool.or_false, has_add_ne _ hc]

/-- Settles O18: what a notice's entry and a fetch do to the summary, and CLEAR_SUMMARY as a change of its port's notice
state. -/
theorem summaryShowsWhatHasArrived : Obligations.SummaryShowsWhatHasArrived := by
  refine ⟨enter_summary_has, fetched_summary, ?_⟩
  rintro s p m _ rfl hr
  exact ⟨_, exec_clearSummary s p m,
    onNotices_done hr (reqClearSummary p) (fun ns => { ns with summary := .none }) _ rfl⟩

end Sys2Proof.Laws
